-- ==== Sys2Proof/Word.lean ====
section
/-! DEFINITION. Sys2Proof/Word.lean: the block's data unit, the byte (R9), and the 16-bit wheel word of R95. -/

namespace Sys2Proof

/-- A byte: an unsigned 8-bit value (R9, R10). -/
abbrev Byte := BitVec 8

/-- A wheel value: 16 bits, sent high byte first (R64, R95). -/
abbrev Wheel := BitVec 16

/-- Bits 15..8 of a wheel value (R95). -/
def Wheel.hi (w : Wheel) : Byte := w.extractLsb' 8 8

/-- Bits 7..0 of a wheel value (R95). -/
def Wheel.lo (w : Wheel) : Byte := w.extractLsb' 0 8

end Sys2Proof
end

