-- ==== Sys2Proof/Config.lean ====
section
/-! DEFINITION. Sys2Proof/Config.lean: what a build of the block fixes (R8), one cycle's move of the environment
(R15, R191, R192), and the free values: opaque constants that stand for what the spec leaves open. -/

namespace Sys2Proof

/-- `MAGIC0`, fixed by R8. -/
def Config.magic0 : Byte := 0x55
/-- `MAGIC1`, fixed by R8. -/
def Config.magic1 : Byte := 0xAA
/-- The shorter length of the whitelist `LEN_OK`, fixed by R8. -/
def Config.len2 : Byte := 0x02
/-- The longer length of the whitelist `LEN_OK`, fixed by R8. -/
def Config.len9 : Byte := 0x09
/-- `MAX_FRAME`: the entries of `buf` and of `ev_bytes` (R8, R24, R29). -/
def Config.maxFrame : Nat := 14

/-- The build-time parameters of R8 that have a default. State holds them, so that a statement over every state is a
statement for every value of them. The parameters R8 leaves OPEN are the opaque constants below. -/
structure Params where
  /-- `P_NREQ`, the number of requester ports: 1..255. -/
  nreq : Nat
  /-- `P_MAX_PAYLOAD`, the largest body in bytes: 0..255. -/
  maxPayload : Nat
  /-- `P_GAP`, the inter-send gap in cycles: 0..2^16-1. -/
  gap : BitVec 16
  /-- `P_BATT_INTERVAL`, the battery poll's wait in cycles, environment only: at least 1. -/
  battInterval : Nat
  /-- `P_VEL_INTERVAL`, the velocity loop's wait in cycles, environment only: at least 1. -/
  velInterval : Nat
  deriving DecidableEq, Repr

/-- The defaults of R8. -/
def Params.default : Params :=
  { nreq := 3, maxPayload := 9, gap := 20, battInterval := 1000, velInterval := 100 }

/-- The ranges of R8. -/
def Params.legal (p : Params) : Bool :=
  decide (1 ≤ p.nreq) && decide (p.nreq ≤ 255) && decide (p.maxPayload ≤ 255)
    && decide (1 ≤ p.battInterval) && decide (1 ≤ p.velInterval)

/-- One host action of the GUI (R196, R198, R201, R204, R99 `REQ`). -/
inductive GuiMove where
  /-- Set a new velocity target (R198). -/
  | setVelocity (left right : Int)
  /-- Select the multiplier (R201). -/
  | selectMultiplier (m : Int)
  /-- Ask for a send of a body on a port (R99 `REQ`, R193): any port, also one to which R204 assigns an activity (log 27). -/
  | request (port : Nat) (body : List Byte)
  /-- Send clear-encoder on port 2 (R92, R204). The payload is not in the source. -/
  | clearEncoder (payload : List Byte)
  deriving DecidableEq, Repr

/-- What the environment does in one cycle: the reset line, the inbound transport's beat (R191), the outbound
transport's two lines (R192) and the GUI's actions. -/
structure Move where
  /-- `rst` in this cycle. -/
  rst : Bool
  /-- The byte offered in this cycle, or none (`rx_valid = 0`). -/
  rx : Option Byte
  /-- `tx_ready` in this cycle. -/
  txReady : Bool
  /-- `tx_open` in this cycle. -/
  txOpen : Bool
  /-- The GUI's actions in this cycle, in order. -/
  gui : List GuiMove
  /-- The consumer leaves an event it has not read for a later cycle (R195). -/
  late : Bool := false
  /-- The ports whose requesters present no new request in this cycle (R194). -/
  hold : List Nat := []
  deriving DecidableEq, Repr, Inhabited

/-- The places whose value the spec leaves unspecified (R24, R29, R34, R41, R164), and the data lines of a port that offers
nothing, to which it gives no value (R86, R87). -/
inductive OpenPlace where
  | buf | evBytes | body | txData | frameByte
  | rxData
  | reqLen (port : Nat)
  | reqData (port : Nat)
  deriving DecidableEq, Repr

/-- FREE VALUE: the byte an unspecified place holds, at an index and a tick. Nothing constrains it (I2, I3, I4, I6). -/
opaque Config.freeByte : OpenPlace → Nat → Nat → Byte

/-- FREE VALUE: the draw `P_ARB` at a tick, for a set of pending ports (R163, I12). -/
opaque Config.arbDraw : Nat → List Nat → Nat

/-- FREE VALUE: which of the sends that wait for a port goes out first, at a tick and a port (R194). -/
opaque Config.sendDraw : Nat → Nat → Nat

/-- FREE VALUE: the environment's move at a tick for which the schedule says nothing (R191, R192, I22). -/
opaque Config.freeMove : Nat → Move

/-- `P_BQ1`, OPEN: the second byte of the battery-query body (R96, I15). -/
opaque Config.bq1 : Byte

/-- `P_RESET_BODY`, OPEN: the body of the reset send (R196, I16). -/
opaque Config.resetBody : List Byte

/-- `P_MULT_SET`, OPEN: whether an integer is a selectable multiplier (R201, I17). -/
opaque Config.multSet : Int → Bool

end Sys2Proof
end

