-- ==== Sys2Proof/Syntax.lean ====
section
/-! DEFINITION. Sys2Proof/Syntax.lean: the block has no instruction set (30_encoding.md); `Instr` has one constructor
per row of spec/opcode_table.json: the transitions of the decoder (R90) and of the arbiter (R91), the codec operations
(R140, R142, R164), RESET (R250), the wire frames (R80) and the ID rows (R92). -/

namespace Sys2Proof

/-- One row of spec/opcode_table.json. An operand is what the row leaves free and its rule reads. -/
inductive Instr where
  -- decoder rows (R90): the operand is the byte on rx_data
  | decIdle
  | decSeek1Magic
  | decSeek1Discard (b : Byte)
  | decSeek2Magic
  | decSeek2Discard (b : Byte)
  | decLenAccept2
  | decLenAccept9
  | decLenReject (b : Byte)
  | decFillStore (b : Byte)
  | decFillCheckOk (b : Byte)
  | decFillCheckBad (b : Byte)
  -- arbiter rows (R91): the operands are registers and ports
  | arbIdleWait
  | arbClosedNoop
  | arbGrant
  | arbSendAbort
  | arbSendStall
  | arbSendByte
  | arbSendLast
  | arbGapCount
  | arbGapDone
  | arbBadState
  -- codec operations (R140, R142, R164)
  | frameByte
  | csumInit
  | csumStep
  | encode
  -- reset (R250)
  | reset
  -- wire frames (R80)
  | frameLen2 (seq id payload csum : Byte)
  | frameLen9 (seq id p0 p1 p2 p3 p4 p5 p6 p7 csum : Byte)
  -- ID rows (R92)
  | idVelocity (left right : Wheel)
  | idBatteryQuery
  | idBatteryReport
  | idResetAck
  | idClearEncoder (payload : List Byte)
  | idTimeout
  deriving DecidableEq, Repr

/-- Where a row's word stands: the "format" column of spec/opcode_table.json. For a decoder word it carries the
"condition" column's value, `rx_data == xor_reduce(buf[0 .. dsize-2])` (R89, R90), which is no bit of DW. -/
inductive Format where
  /-- `rx_valid`, bit 0 (row DEC_IDLE). -/
  | rxValid
  /-- The decoder word DW, 11 bits (R89), with the value of the rows' condition. -/
  | dw (csumOk : Bool)
  /-- The arbiter word AW, 7 bits (R91). -/
  | aw
  /-- AW read as the output function in SEND (row FRAME_BYTE). -/
  | awOutput
  /-- AW read as the part of ARB_GRANT that initialises the checksum (row CSUM_INIT). -/
  | awGrantPart
  /-- AW read as the part of ARB_SEND_BYTE that folds a byte in (row CSUM_STEP). -/
  | awBytePart
  /-- AW read as the selection of the frame function (row ENCODE). -/
  | awFrame
  /-- `rst`, bit 0 (row RESET). -/
  | rst
  /-- The bytes of a wire frame, byte 0 first (R80). -/
  | wire
  /-- The body of a sent frame, ID first (R87, R92). -/
  | sentBody
  /-- The ID byte of a received Command (R92, R195). -/
  | receivedId
  deriving DecidableEq, Repr

end Sys2Proof
end

