-- ==== Sys2Proof/WellFormed.lean ====
section
/-! DEFINITION. Sys2Proof/WellFormed.lean: the operands a row of the table admits. -/

namespace Sys2Proof

/-- The operand checks of the rows: a DISCARD or REJECT row does not take the byte of its state's MAGIC or ACCEPT row
(R89, R112, R114, R117), and a body has fewer than 256 bytes (R141). -/
def Instr.wellFormed (i : Instr) : Bool :=
  match i with
  | .decSeek1Discard b => b != Config.magic0
  | .decSeek2Discard b => b != Config.magic1
  | .decLenReject b => b != Config.len2 && b != Config.len9
  | .idClearEncoder payload => decide (payload.length < 255)
  | .decIdle | .decSeek1Magic | .decSeek2Magic | .decLenAccept2 | .decLenAccept9 | .decFillStore _
  | .decFillCheckOk _ | .decFillCheckBad _ | .arbIdleWait | .arbClosedNoop | .arbGrant | .arbSendAbort
  | .arbSendStall | .arbSendByte | .arbSendLast | .arbGapCount | .arbGapDone | .arbBadState | .frameByte
  | .csumInit | .csumStep | .encode | .reset | .frameLen2 .. | .frameLen9 .. | .idVelocity ..
  | .idBatteryQuery | .idBatteryReport | .idResetAck | .idTimeout => true

end Sys2Proof
end

