-- ==== Sys2Proof/Decode.lean ====
section
/-! DEFINITION. Sys2Proof/Decode.lean: from words to rows: the decoder word DW (R89, R90), the arbiter word AW (R91), the
one-bit words of DEC_IDLE and RESET, the wire frames (R80), the bodies and IDs of R92 to R97; every other word is
rejected by name. After it the encoder, from the same tables. -/

namespace Sys2Proof

/-- Why a word is no row of its format. -/
inductive Reject where
  /-- The format takes another number of bytes. -/
  | wrongLength
  /-- A bit above the word's width is 1. -/
  | reservedBits
  /-- The one-bit word has the value that selects other rows (R90 row 0, R250). -/
  | notSelected
  /-- DW `0x4xx` to `0x6xx`: `at_last = 1` outside FILL, which cannot occur (R89, R90). -/
  | impossibleWord
  /-- AW does not select the operation of this format (R142, R164, R140). -/
  | otherRow
  /-- The frame does not begin with the two magic bytes (R80). -/
  | badMagic
  /-- LEN is outside {2, 9} (R82). -/
  | badLength
  /-- The bytes after the ID are not those of the row's body (R95, R96). -/
  | otherBody
  /-- An ID to which the spec gives no row (R92). -/
  | unknownId
  deriving DecidableEq, Repr

/-- A table row matches a word when `(word & mask) == match` (R89). -/
def rowMatches {n : Nat} (word mask pattern : BitVec n) : Bool := (word &&& mask) == pattern

/-- The decoder rows in priority order (R90). `csumOk` is the condition column of rows 9 and 10. -/
def decodeDw (csumOk : Bool) (w : BitVec 11) : Except Reject Instr :=
  let b : Byte := w.extractLsb' 0 8
  if rowMatches w 0x7FF 0x055 then .ok .decSeek1Magic
  else if rowMatches w 0x700 0x000 then .ok (.decSeek1Discard b)
  else if rowMatches w 0x7FF 0x1AA then .ok .decSeek2Magic
  else if rowMatches w 0x700 0x100 then .ok (.decSeek2Discard b)
  else if rowMatches w 0x7FF 0x202 then .ok .decLenAccept2
  else if rowMatches w 0x7FF 0x209 then .ok .decLenAccept9
  else if rowMatches w 0x700 0x200 then .ok (.decLenReject b)
  else if rowMatches w 0x700 0x300 then .ok (.decFillStore b)
  else if rowMatches w 0x700 0x700 && csumOk then .ok (.decFillCheckOk b)
  else if rowMatches w 0x700 0x700 && !csumOk then .ok (.decFillCheckBad b)
  else .error .impossibleWord

/-- The arbiter rows in priority order (R91). -/
def decodeAw (w : BitVec 7) : Except Reject Instr :=
  if rowMatches w 0x07 0x00 then .ok .arbIdleWait
  else if rowMatches w 0x0F 0x04 then .ok .arbClosedNoop
  else if rowMatches w 0x0F 0x0C then .ok .arbGrant
  else if rowMatches w 0x0B 0x01 then .ok .arbSendAbort
  else if rowMatches w 0x1B 0x09 then .ok .arbSendStall
  else if rowMatches w 0x3B 0x19 then .ok .arbSendByte
  else if rowMatches w 0x3B 0x39 then .ok .arbSendLast
  else if rowMatches w 0x43 0x02 then .ok .arbGapCount
  else if rowMatches w 0x43 0x42 then .ok .arbGapDone
  else if rowMatches w 0x03 0x03 then .ok .arbBadState
  else .error .otherRow

/-- The word DEC_IDLE is selected by: `rx_valid` (R90 row 0). -/
def decodeRxValid (rxValid : Bool) : Except Reject Instr :=
  if rxValid then .error .notSelected else .ok .decIdle

/-- The word RESET is selected by: `rst` (R250). -/
def decodeRst (rst : Bool) : Except Reject Instr :=
  if rst then .ok .reset else .error .notSelected

/-- The codec operations that AW selects (R140, R142, R164): each has its own row of the table over AW's bits. -/
def decodeAwOp (op : Instr) (mask pattern w : BitVec 7) : Except Reject Instr :=
  if rowMatches w mask pattern then .ok op else .error .otherRow

/-- A wire frame, whole (R80): the header, a LEN of the whitelist, and exactly `LEN + 2` further bytes (R94). -/
def decodeWire (f : List Byte) : Except Reject Instr :=
  match f with
  | m0 :: m1 :: len :: rest =>
    if m0 != Config.magic0 || m1 != Config.magic1 then .error .badMagic
    else if len == Config.len2 then
      match rest with
      | [s, i, p, c] => .ok (.frameLen2 s i p c)
      | _ => .error .wrongLength
    else if len == Config.len9 then
      match rest with
      | [s, i, p0, p1, p2, p3, p4, p5, p6, p7, c] => .ok (.frameLen9 s i p0 p1 p2 p3 p4 p5 p6 p7 c)
      | _ => .error .wrongLength
    else .error .badLength
  | _ => .error .wrongLength

/-- The body of a sent frame, by its ID byte (R92): a velocity body ends in four zeros (R95), and the only battery query is
`[0x02, P_BQ1]` (R96). -/
def decodeSent (body : List Byte) : Except Reject Instr :=
  match body with
  | [] => .error .wrongLength
  | id :: rest =>
    if id == 0x01 then
      match rest with
      | [lh, ll, rh, rl, 0, 0, 0, 0] => .ok (.idVelocity (lh ++ ll) (rh ++ rl))
      | _ => .error .otherBody
    else if id == 0x02 then
      match rest with
      | [b] => if b == Config.bq1 then .ok .idBatteryQuery else .error .otherBody
      | _ => .error .otherBody
    else if id == 0x06 then
      if rest.length < 255 then .ok (.idClearEncoder rest) else .error .wrongLength
    else .error .unknownId

/-- The ID byte of a received Command, for the IDs the source names as received (R92, R97, R196). -/
def decodeReceived (id : Byte) : Except Reject Instr :=
  if id == 0x02 then .ok .idBatteryReport
  else if id == 0x05 then .ok .idResetAck
  else if id == 0xFF then .ok .idTimeout
  else .error .unknownId

/-- The decoder, total on any bytes of any format. Words are in bytes, the first byte the low one. -/
def decode (f : Format) (bytes : List Byte) : Except Reject Instr :=
  match f, bytes with
  | .rxValid, [b] => if b >>> 1 == 0 then decodeRxValid (b.getLsbD 0) else .error .reservedBits
  | .rst, [b] => if b >>> 1 == 0 then decodeRst (b.getLsbD 0) else .error .reservedBits
  | .dw csumOk, [lo, hi] =>
    if hi >>> 3 == 0 then decodeDw csumOk (hi.extractLsb' 0 3 ++ lo) else .error .reservedBits
  | .aw, [b] => if b >>> 7 == 0 then decodeAw (b.extractLsb' 0 7) else .error .reservedBits
  | .awOutput, [b] =>
    if b >>> 7 == 0 then decodeAwOp .frameByte 0x03 0x01 (b.extractLsb' 0 7) else .error .reservedBits
  | .awGrantPart, [b] =>
    if b >>> 7 == 0 then decodeAwOp .csumInit 0x0F 0x0C (b.extractLsb' 0 7) else .error .reservedBits
  | .awBytePart, [b] =>
    if b >>> 7 == 0 then decodeAwOp .csumStep 0x3B 0x19 (b.extractLsb' 0 7) else .error .reservedBits
  | .awFrame, [b] =>
    if b >>> 7 == 0 then decodeAwOp .encode 0x03 0x01 (b.extractLsb' 0 7) else .error .reservedBits
  | .wire, f => decodeWire f
  | .sentBody, body => decodeSent body
  | .receivedId, [b] => decodeReceived b
  | _, _ => .error .wrongLength

/-- A decoder word in bytes: the row's fixed bits `hi` and the byte `rx_data` (R89). -/
def dwWord (hi lo : Byte) : List Byte := [lo, hi]

/-- The encoder: the format and the word of a row, bits the row leaves free as zeros (spec/opcode_table.json). -/
def encode (i : Instr) : Format × List Byte :=
  match i with
  | .decIdle => (.rxValid, [0x0])
  | .decSeek1Magic => (.dw true, dwWord 0x0 0x55)
  | .decSeek1Discard b => (.dw true, dwWord 0x0 b)
  | .decSeek2Magic => (.dw true, dwWord 0x1 0xAA)
  | .decSeek2Discard b => (.dw true, dwWord 0x1 b)
  | .decLenAccept2 => (.dw true, dwWord 0x2 0x02)
  | .decLenAccept9 => (.dw true, dwWord 0x2 0x09)
  | .decLenReject b => (.dw true, dwWord 0x2 b)
  | .decFillStore b => (.dw true, dwWord 0x3 b)
  | .decFillCheckOk b => (.dw true, dwWord 0x7 b)
  | .decFillCheckBad b => (.dw false, dwWord 0x7 b)
  | .arbIdleWait => (.aw, [0x00])
  | .arbClosedNoop => (.aw, [0x04])
  | .arbGrant => (.aw, [0x0C])
  | .arbSendAbort => (.aw, [0x01])
  | .arbSendStall => (.aw, [0x09])
  | .arbSendByte => (.aw, [0x19])
  | .arbSendLast => (.aw, [0x39])
  | .arbGapCount => (.aw, [0x02])
  | .arbGapDone => (.aw, [0x42])
  | .arbBadState => (.aw, [0x03])
  | .frameByte => (.awOutput, [0x01])
  | .csumInit => (.awGrantPart, [0x0C])
  | .csumStep => (.awBytePart, [0x19])
  | .encode => (.awFrame, [0x01])
  | .reset => (.rst, [0x1])
  | .frameLen2 s i p c => (.wire, [Config.magic0, Config.magic1, Config.len2, s, i, p, c])
  | .frameLen9 s i p0 p1 p2 p3 p4 p5 p6 p7 c =>
    (.wire, [Config.magic0, Config.magic1, Config.len9, s, i, p0, p1, p2, p3, p4, p5, p6, p7, c])
  | .idVelocity l r => (.sentBody, [0x01, l.hi, l.lo, r.hi, r.lo, 0, 0, 0, 0])
  | .idBatteryQuery => (.sentBody, [0x02, Config.bq1])
  | .idBatteryReport => (.receivedId, [0x02])
  | .idResetAck => (.receivedId, [0x05])
  | .idClearEncoder payload => (.sentBody, 0x06 :: payload)
  | .idTimeout => (.receivedId, [0xFF])

/-- The `n` bytes of a number, the low byte first. -/
def bytesOf (n w : Nat) : List Byte :=
  match n with
  | 0 => []
  | k + 1 => BitVec.ofNat 8 w :: bytesOf k (w / 256)

/-- The format in which a table word of `nbits` bits is read. The table's 8-bit rows share their words among AW, the
ID byte, `rst` and `rx_valid`; without the format only one reading can be given: AW for what fits its 7 bits, else the
ID byte of a received Command. The words of `rst` and `rx_valid` are read as such when `nbits` is 1. -/
def tableFormat (nbits w : Nat) : Format :=
  if nbits ≤ 1 then (if w % 2 = 1 then .rst else .rxValid)
  else if nbits ≤ 8 then (if w < 128 then .aw else .receivedId)
  else if nbits ≤ 16 then .dw true
  else .wire

/-- The bytes of a table word, the word in its low bits. A wire-frame row is written byte 0 first and MSB first, so as one
number its first byte may stand in the low or in the high bits: the side on which the frame begins decides. A word that is a
frame from either side is read low byte first. DESIGN CHOICE (log 14). -/
def tableBytes (nbits w : Nat) : List Byte :=
  let low := bytesOf ((nbits + 7) / 8) w
  match tableFormat nbits w, decodeWire low with
  | .wire, .error _ => low.reverse
  | _, _ => low

/-- What the decoder reads from a word numbered as spec/opcode_table.json numbers it. -/
def decodeTableWord (nbits w : Nat) : Option Instr :=
  match decode (tableFormat nbits w) (tableBytes nbits w) with
  | .ok i => some i
  | .error _ => none

end Sys2Proof
end

