-- ==== Sys2Proof/Machine/State.lean ====
section
/-! DEFINITION. Sys2Proof/Machine/State.lean: every register of 10_state.md, the ports of R85 and the environment agents of
43_host_requesters.md as plain data; why a step stops; and the state after reset (R47). -/

namespace Sys2Proof.Machine

/-- A byte array addressed by index (R60): its cells in one canonical form (`Memory.wf`). An index that is not listed
holds an unspecified byte (R24, R29, R34). -/
abbrev Memory := List Host.Cell

/-- `st[1:0]`, the decoder state (R21): SeekFirstMagic, SeekSecondMagic, ReadLength, Fill. -/
inductive DecSt where
  | s1 | s2 | rl | fill
  deriving DecidableEq, Repr

/-- `ev_kind[1:0]` (R26). `reserved` is the code 3, never produced. -/
inductive EvKind where
  | noEvent | ready | mismatch | reserved
  deriving DecidableEq, Repr

/-- `a_st[1:0]` (R32). `bad` is the code 3, which no rule enters. -/
inductive ArbSt where
  | idle | send | gap | bad
  deriving DecidableEq, Repr

/-- `status[i]` (R40): 0 OK, 1 CLOSED. -/
inductive SendStatus where
  | ok | closed
  deriving DecidableEq, Repr

/-- The decoder registers (R21 to R24). -/
structure Dec where
  /-- `st` (R21). -/
  st : DecSt
  /-- `dlen[7:0]` (R22). -/
  dlen : Byte
  /-- `cur[3:0]`, the fill cursor (R23). -/
  cur : BitVec 4
  /-- `buf[0..13]` (R24). -/
  buf : Memory
  deriving DecidableEq, Repr

/-- The decoder event registers (R25 to R31). -/
structure Ev where
  /-- `ev_valid` (R25). -/
  valid : Bool
  /-- `ev_kind[1:0]` (R26). -/
  kind : EvKind
  /-- `ev_id[7:0]` (R27). -/
  id : Byte
  /-- `ev_seq[7:0]` (R27). -/
  seq : Byte
  /-- `ev_len[3:0]` (R28). -/
  len : BitVec 4
  /-- `ev_bytes[0..13]` (R29). -/
  bytes : Memory
  deriving DecidableEq, Repr

/-- The completion outputs of one requester port (R39, R40). -/
structure PortOut where
  /-- `done[i]` (R39). -/
  done : Bool
  /-- `status[i]` (R40). -/
  status : SendStatus
  deriving DecidableEq, Repr

/-- The arbiter registers (R32 to R40). -/
structure Arb where
  /-- `a_st` (R32). -/
  st : ArbSt
  /-- `a_gnt`, the port that holds the grant (R33). -/
  gnt : Nat
  /-- `a_len[7:0]` (R34). -/
  len : Byte
  /-- `a_body[0 .. P_MAX_PAYLOAD-1]` (R34). -/
  body : Memory
  /-- `a_cur[8:0]`, the serializer cursor (R35). -/
  cur : BitVec 9
  /-- `a_csum[7:0]` (R36). -/
  csum : Byte
  /-- `a_gap[15:0]` (R37). -/
  gap : BitVec 16
  /-- `seq_ctr[7:0]` (R38). -/
  seqCtr : Byte
  /-- `done[i]` and `status[i]`, port 0 first (R39, R40). -/
  outs : List PortOut
  deriving DecidableEq, Repr

/-- What the transmit port carried in the cycle of the last edge (R41), and the frame being offered (R140, R164). -/
structure TxPort where
  /-- `tx_valid` (R41). -/
  valid : Bool
  /-- `tx_data[7:0]` (R41); unspecified while `valid` is false. -/
  data : Byte
  /-- The value of ENCODE that FRAME_BYTE walks in SEND (R164, R146); empty outside SEND. -/
  frame : List Byte
  deriving DecidableEq, Repr

/-- The request inputs of one port (R87). -/
structure ReqPort where
  /-- `req_valid[i]`. -/
  valid : Bool
  /-- `req_len[i]`. -/
  len : Byte
  /-- `req_data[i]`, entry 0 first; under a request the entries of its body alone (log 28). -/
  data : List Byte
  deriving DecidableEq, Repr

/-- The input ports in the present cycle (R85). -/
structure Inp where
  /-- `rst`. -/
  rst : Bool
  /-- `rx_valid` (R86). -/
  rxValid : Bool
  /-- `rx_data` (R86). -/
  rxData : Byte
  /-- `tx_ready` (R88). -/
  txReady : Bool
  /-- `tx_open` (R88). -/
  txOpen : Bool
  /-- The request ports, port 0 first (R87). -/
  req : List ReqPort
  deriving DecidableEq, Repr

/-- Who asked for a send (R190, R204): the battery poll, the velocity activity of a generation, or the GUI. -/
inductive Sender where
  | battery
  | velocity (gen : Nat)
  | gui
  deriving DecidableEq, Repr

/-- A body that waits for its port (R193, R194). -/
structure Send where
  /-- Whose send it is. -/
  owner : Sender
  /-- The body to frame (R87). -/
  body : List Byte
  deriving DecidableEq, Repr

/-- The requester of one port (R193, R194). -/
structure Lane where
  /-- Whose request is on the port while `req_valid[i] = 1`. -/
  owner : Sender
  /-- The sends that wait for the port, oldest first. -/
  waiting : List Send
  /-- The status its last returned send was completed with (R193). -/
  result : Option SendStatus
  deriving DecidableEq, Repr

/-- Where a polling activity stands in its loop (R199, R202). -/
inductive Phase where
  /-- About to make the iteration's check. -/
  | check
  /-- Waiting: the cycles still to come before the send. -/
  | wait (cycles : Nat)
  /-- Blocked in `send` until its port's `done` (R174). -/
  | sending
  deriving DecidableEq, Repr

/-- A velocity activity `V(g, left, right, m)` (R198, R199). -/
structure Velocity where
  /-- Its generation `g`. -/
  gen : Nat
  /-- Its target. -/
  left : Int
  /-- Its target. -/
  right : Int
  /-- The multiplier captured at its start. -/
  mult : Int
  /-- Where it stands. -/
  phase : Phase
  deriving DecidableEq, Repr

/-- A call of the event consumer (R195). -/
inductive HostCall where
  | onDecoded (id seq : Byte) (payload : List Byte)
  | onChecksumFailure (raw : List Byte)
  deriving DecidableEq, Repr

/-- The environment agents (R15, 43_host_requesters.md). They are no part of the block. -/
structure Env where
  /-- The generation token `G` (R197). -/
  gen : Nat
  /-- The currently selected multiplier (R198, R201). -/
  mult : Int
  /-- The velocity activities that have not terminated, oldest first (R198). -/
  vels : List Velocity
  /-- The battery-poll activity, if one runs (R202, R203). -/
  batt : Option Phase
  /-- The requesters, port 0 first (R193). -/
  lanes : List Lane
  /-- The event registers hold an event that the consumer left for a later cycle (R195): the model's own (log 26). -/
  unread : Bool
  /-- The consumer's calls, oldest first (R195). -/
  calls : List HostCall
  /-- The bytes transferred to the outbound transport, oldest first (R88, R192). -/
  wire : List Byte
  /-- What the environment does in the coming cycles (R191, R192, I22). -/
  sched : List Move
  /-- The sender in whose name a send row runs. -/
  actor : Sender
  deriving DecidableEq, Repr

/-- The whole machine: the parameters of its build, the block's registers, its ports, its environment, and the counter
that the free values are applied to. -/
structure State where
  /-- The build-time parameters (R8). No step changes them. -/
  cfg : Params
  /-- The decoder registers. -/
  dec : Dec
  /-- The event registers. -/
  ev : Ev
  /-- The arbiter registers. -/
  arb : Arb
  /-- The transmit port. -/
  tx : TxPort
  /-- The input ports. -/
  inp : Inp
  /-- The environment agents. -/
  env : Env
  /-- The model's own counter of steps: every free value is drawn at a tick. -/
  tick : Nat
  deriving DecidableEq, Repr

/-- Why a step ends in a fault. -/
inductive Fault where
  /-- `a_st == 3` (R32, I7), raised by the row ARB_BAD_STATE. Safe: the spec asks for it and no rule enters the state. -/
  | badArbiterState
  /-- The consumer sees `ev_valid` with the reserved `ev_kind = 3` (R26, I8). Safe: never produced. -/
  | reservedEventKind
  /-- A decoder row reads or writes beyond `buf[13]` (R24, R60). Safe: no reachable state does. -/
  | bufferIndex
  /-- A send completes on a port index that does not exist (R33, R39). Safe: no reachable state does. -/
  | noSuchPort
  deriving DecidableEq, Repr

/-- Why a step is refused. -/
inductive Refusal where
  /-- Raised by exec's arm of a row that has no meaning yet. Safe: nothing is claimed of it. -/
  | notModelled (mnemonic : String)
  /-- A request with `req_len > P_MAX_PAYLOAD` (R87, I9), raised when it is presented, at an edge that sees it and by the
  grant. Safe: the spec gives such a run no meaning. -/
  | requestTooLong
  /-- A stimulus `FEEDFRAME` of a body of 256 bytes or more, which has no frame (R141). Safe. -/
  | bodyTooLong
  /-- A grant or closed no-op with PENDING empty, which R91 never selects and for which `P_ARB` has no value. Safe. -/
  | noPendingPort
  /-- A host action on a port that does not exist (R15, R204), raised by the requesters. Safe: no such move. -/
  | noSuchRequester
  /-- A multiplier outside `P_MULT_SET` (R201), raised by the GUI's move. Safe: no such move. -/
  | multiplierNotSelectable
  /-- A decode word that is no row, raised by the edge (R89: it cannot occur). Safe. -/
  | undecodable
  deriving DecidableEq, Repr

/-- The decoder after reset (R47). Nothing of `buf` is specified. -/
def Dec.reset : Dec := { st := .s1, dlen := 0x00, cur := 0, buf := [] }

/-- The event registers after reset (R47). Nothing of `ev_bytes` is specified. -/
def Ev.reset : Ev := { valid := false, kind := .noEvent, id := 0x00, seq := 0x00, len := 0, bytes := [] }

/-- The arbiter with `n` ports after reset (R47). Nothing of `a_body` is specified. -/
def Arb.reset (n : Nat) : Arb :=
  { st := .idle, gnt := 0, len := 0, body := [], cur := 0, csum := 0x00, gap := 0, seqCtr := 0x00,
    outs := List.replicate n { done := false, status := .ok } }

/-- The transmit port when nothing was ever offered. DESIGN CHOICE (log 2). -/
def TxPort.reset : TxPort := { valid := false, data := 0x00, frame := [] }

/-- The input ports of a block with `n` requesters before the environment drives them. DESIGN CHOICE (log 2). -/
def Inp.reset (n : Nat) : Inp :=
  { rst := false, rxValid := false, rxData := 0x00, txReady := false, txOpen := false,
    req := List.replicate n { valid := false, len := 0, data := [] } }

/-- The environment of a block with `n` requesters at the start of a run: `G = 0` (R197), nothing running, nothing
scheduled. DESIGN CHOICE (logs 4, 5 and 26). -/
def Env.reset (n : Nat) : Env :=
  { gen := 0, mult := 1, vels := [], batt := none,
    lanes := List.replicate n { owner := .gui, waiting := [], result := none },
    unread := false, calls := [], wire := [], sched := [], actor := .gui }

/-- The machine right after reset (R47, R252), built with the defaults of R8. -/
def State.reset : State :=
  { cfg := Params.default, dec := Dec.reset, ev := Ev.reset, arb := Arb.reset Params.default.nreq,
    tx := TxPort.reset, inp := Inp.reset Params.default.nreq, env := Env.reset Params.default.nreq, tick := 0 }

end Sys2Proof.Machine
end

