-- ==== Sys2Proof/Machine/Ops.lean ====
section
/-! DEFINITION. Sys2Proof/Machine/Ops.lean: the named operations over the byte arrays, the register groups, the arbitration
draw and the requesters' queues, and the block's analogue of taking an exception (R227). Every meaning is written over
these. -/

namespace Sys2Proof.Machine

/-- What a row, an agent or an edge answers. -/
abbrev Result := Host.Outcome State Fault Refusal

/-- Go on from a next state; a fault or a refusal ends the step. -/
def andThen (r : Result) (f : State → Result) : Result :=
  match r with
  | .next s => f s
  | .fault x => .fault x
  | .refused x => .refused x

/-- Run a list of moves in order. -/
def forAll {α : Type} (f : α → State → Result) (xs : List α) (s : State) : Result :=
  match xs with
  | [] => .next s
  | x :: rest => andThen (f x s) (forAll f rest)

/-! ### Byte arrays (R60, R62) -/

/-- The cells from `lo` on: indices strictly rising, each below the array's size. -/
def Memory.wfFrom (lo bound : Nat) (m : Memory) : Bool :=
  match m with
  | [] => true
  | (a, _) :: rest => decide (lo ≤ a) && decide (a < bound) && Memory.wfFrom (a + 1) bound rest

/-- The one canonical form of an array with `bound` entries. No entry can equal what an unlisted index reads as, since
that is no particular value (log 1). -/
def Memory.wf (bound : Nat) (m : Memory) : Bool := Memory.wfFrom 0 bound m

/-- The byte listed at an index, if one is. -/
def Memory.get (m : Memory) (k : Nat) : Option Byte :=
  match m with
  | [] => none
  | (a, b) :: rest => if k = a then some b else Memory.get rest k

/-- Write one byte, in the canonical form. -/
def Memory.put (m : Memory) (k : Nat) (v : Byte) : Memory :=
  match m with
  | [] => [(k, v)]
  | (a, b) :: rest =>
    if k < a then (k, v) :: (a, b) :: rest
    else if k = a then (k, v) :: rest
    else (a, b) :: Memory.put rest k v

/-- The cells of a list of bytes, the first at index `lo`. -/
def Memory.fromList (lo : Nat) (bytes : List Byte) : Memory :=
  match bytes with
  | [] => []
  | b :: rest => (lo, b) :: Memory.fromList (lo + 1) rest

/-- What an entry reads as: the listed byte, or a free value for an unspecified one (I2, I3, I4; log 1). -/
def Memory.read (place : OpenPlace) (tick : Nat) (m : Memory) (k : Nat) : Byte :=
  (Memory.get m k).getD (Config.freeByte place k tick)

/-- `n` entries from index `lo` on. -/
def Memory.slice (place : OpenPlace) (tick : Nat) (m : Memory) (lo n : Nat) : List Byte :=
  (List.range n).map fun j => Memory.read place tick m (lo + j)

/-! ### Register groups -/

/-- Replace the decoder registers. -/
def State.setDec (s : State) (d : Dec) : State := { s with dec := d }
/-- Replace the event registers. -/
def State.setEv (s : State) (e : Ev) : State := { s with ev := e }
/-- Replace the arbiter registers. -/
def State.setArb (s : State) (a : Arb) : State := { s with arb := a }
/-- Replace the transmit port. -/
def State.setTx (s : State) (t : TxPort) : State := { s with tx := t }
/-- Replace the input ports. -/
def State.setInp (s : State) (i : Inp) : State := { s with inp := i }
/-- Replace the environment. -/
def State.setEnv (s : State) (e : Env) : State := { s with env := e }
/-- Advance the counter of the free values. -/
def State.advance (s : State) : State := { s with tick := s.tick + 1 }

/-! ### The decoder (40_decoder.md) -/

/-- The decoder's control transfer `st <- S` (R12). -/
def State.goto (s : State) (st : DecSt) : State := s.setDec { s.dec with st := st }

/-- The block's analogue of taking an exception: the return to SeekFirstMagic on a completion or an anomaly (R227).
Nothing is saved and no handler runs, so there is no return from it (R228). -/
def State.resync (s : State) : State := s.goto .s1

/-- `buf[k]` (R24). -/
def State.bufAt (s : State) (k : Nat) : Byte := Memory.read .buf s.tick s.dec.buf k

/-- `buf[lo ..< lo + n]`. -/
def State.bufSlice (s : State) (lo n : Nat) : List Byte := Memory.slice .buf s.tick s.dec.buf lo n

/-- `buf[k] <- v`, for an index the buffer has (R24). -/
def State.bufWrite (s : State) (k : Nat) (v : Byte) : State :=
  s.setDec { s.dec with buf := Memory.put s.dec.buf k v }

/-- An accepted LEN byte: the frame's first three bytes, the cursor and the transfer to FILL, all at
one edge (R115, R116), against R66's one byte write an edge. DEDUCED (log 23). -/
def State.acceptLen (s : State) (len : Byte) : State :=
  let t := ((s.bufWrite 0 Config.magic0).bufWrite 1 Config.magic1).bufWrite 2 len
  t.setDec { t.dec with dlen := len, cur := 3, st := .fill }

/-! ### The arbiter (42_arbiter.md) -/

/-- The ports of PENDING, in index order: requested, and not in their done cycle (R160). -/
def State.pending (s : State) : List Nat :=
  (List.range s.cfg.nreq).filter fun i =>
    match s.inp.req[i]?, s.arb.outs[i]? with
    | some r, some o => r.valid && !o.done
    | _, _ => false

/-- A member of a set of ports, by a draw: with one member there is nothing to draw. -/
def pickPort (draw : Nat) (ports : List Nat) : Option Nat :=
  match ports with
  | [] => none
  | [g] => some g
  | g :: h :: rest => (g :: h :: rest)[draw % (g :: h :: rest).length]?

/-- `P_ARB(PENDING)`: any member of PENDING (R163, R175; log 6). -/
def State.arbChoice (s : State) : Option Nat := pickPort (Config.arbDraw s.tick s.pending) s.pending

/-- The body a port requests: `req_data[i][0 .. req_len[i]-1]` (R87). -/
def ReqPort.body (r : ReqPort) : List Byte := r.data.take r.len.toNat

/-- Every presented request is inside the block's contract, `req_len <= P_MAX_PAYLOAD` (R87). -/
def State.requestsLegal (s : State) : Bool :=
  s.inp.req.all fun r => !r.valid || decide (r.len.toNat ≤ s.cfg.maxPayload)

/-- `a_body[k]` (R34). -/
def State.bodyAt (s : State) (k : Nat) : Byte := Memory.read .body s.tick s.arb.body k

/-- The captured body, `a_body[0 ..< a_len]` (R34). -/
def State.capturedBody (s : State) : List Byte := Memory.slice .body s.tick s.arb.body 0 s.arb.len.toNat

/-- A byte is transferred to the outbound transport (R88). -/
def State.transfer (s : State) (b : Byte) : State := s.setEnv { s.env with wire := s.env.wire ++ [b] }

/-! ### The event consumer (R195) -/

/-- The list the consumer observes: `ev_bytes[0 ..< ev_len]` (R29). -/
def State.eventBytes (s : State) : List Byte := Memory.slice .evBytes s.tick s.ev.bytes 0 s.ev.len.toNat

/-- The consumer's call for a Command in the event registers (R195). -/
def State.decodedCall (s : State) : HostCall := .onDecoded s.ev.id s.ev.seq s.eventBytes

/-- The consumer's call for a ChecksumMismatch in the event registers (R195). -/
def State.failureCall (s : State) : HostCall := .onChecksumFailure s.eventBytes

/-- The call for the event in the event registers, if they hold one (R195). -/
def State.eventCall (s : State) : Option HostCall :=
  match s.ev.kind with
  | .ready => some s.decodedCall
  | .mismatch => some s.failureCall
  | .noEvent | .reserved => none

/-- Note whether the consumer has left the event in the registers for later (R195). -/
def State.setUnread (s : State) (b : Bool) : State := s.setEnv { s.env with unread := b }

/-- The consumer makes a call (R195). -/
def State.call (s : State) (c : HostCall) : State := s.setEnv { s.env with calls := s.env.calls ++ [c] }

/-! ### The requesters (R193, R194) -/

/-- A port without a request: the spec gives `req_len[i]` and `req_data[i]` no value while `req_valid[i] = 0`, so they are
free values (log 22). -/
def ReqPort.withdrawn (port entries tick : Nat) : ReqPort :=
  { valid := false, len := Config.freeByte (.reqLen port) 0 tick,
    data := (List.range entries).map fun k => Config.freeByte (.reqData port) k tick }

/-- Put a send into the waiting line of a port (R194): the sender is the acting one. -/
def State.enqueue (s : State) (port : Nat) (body : List Byte) : Result :=
  match s.env.lanes[port]? with
  | none => .refused .noSuchRequester
  | some l =>
    let l' : Lane := { l with waiting := l.waiting ++ [{ owner := s.env.actor, body := body }] }
    .next (s.setEnv { s.env with lanes := s.env.lanes.set port l' })

/-- A member of a list by a draw, and the list without it: with one member there is nothing to draw. -/
def takeOne {α : Type} (draw : Nat) (xs : List α) : Option (α × List α) :=
  match xs with
  | [] => none
  | [x] => some (x, [])
  | x :: y :: rest =>
    let k := draw % (x :: y :: rest).length
    ((x :: y :: rest)[k]?).map fun z => (z, (x :: y :: rest).eraseIdx k)

/-- Name the sender in whose name the next send row runs. -/
def State.actAs (s : State) (who : Sender) : State := s.setEnv { s.env with actor := who }

end Sys2Proof.Machine
end

