-- ==== Sys2Proof/Machine/Operands.lean ====
section
/-! DEFINITION. Sys2Proof/Machine/Operands.lean: what the rows read: the frame function and the checksum (R84, R140, R164), the
words DW and AW (R89, R91), the bodies of the host's commands (R95, R96, R200), and the ports as outputs (R85). -/

namespace Sys2Proof.Machine

/-- `xor_reduce` (R11): the XOR of a list of bytes, `0x00` for none. -/
def xorReduce (bytes : List Byte) : Byte :=
  match bytes with
  | [] => 0x00
  | b :: rest => b ^^^ xorReduce rest

/-- The bytes of a frame before its checksum (R140): the header, LEN, SEQ and the body. -/
def frameHead (body : List Byte) (seq : Byte) : List Byte :=
  [Config.magic0, Config.magic1, BitVec.ofNat 8 body.length, seq] ++ body

/-- `ENCODE(body, s)` (R140), for a body of fewer than 256 bytes (R141). For a longer one the rule gives no frame and the
value here, LEN modulo 256, means nothing: no row, port or directive uses it. DESIGN CHOICE (log 25). -/
def encodeFrame (body : List Byte) (seq : Byte) : List Byte :=
  frameHead body seq ++ [xorReduce (frameHead body seq)]

/-! ### The decoder word (R89) -/

/-- The code of `st` (R21). -/
def DecSt.code (st : DecSt) : BitVec 2 :=
  match st with
  | .s1 => 0
  | .s2 => 1
  | .rl => 2
  | .fill => 3

/-- The code of `a_st` (R32). -/
def ArbSt.code (st : ArbSt) : BitVec 2 :=
  match st with
  | .idle => 0
  | .send => 1
  | .gap => 2
  | .bad => 3

/-- The code of `ev_kind` (R26). -/
def EvKind.code (k : EvKind) : BitVec 2 :=
  match k with
  | .noEvent => 0
  | .ready => 1
  | .mismatch => 2
  | .reserved => 3

/-- The code of a status (R40). -/
def SendStatus.code (c : SendStatus) : BitVec 1 :=
  match c with
  | .ok => 0
  | .closed => 1

/-- `dsize = dlen + 5` (R22). -/
def Dec.dsize (d : Dec) : Nat := d.dlen.toNat + 5

/-- `at_last` (R89): in FILL, the byte that comes is the checksum byte. -/
def Dec.atLast (d : Dec) : Bool := d.st == .fill && d.cur.toNat == d.dsize - 1

/-- `xor_reduce(buf[0 .. dsize-2])` (R119). -/
def State.bufXor (s : State) : Byte := xorReduce (s.bufSlice 0 (s.dec.dsize - 1))

/-- The condition of rows 9 and 10 (R90). -/
def State.csumOk (s : State) (b : Byte) : Bool := b == s.bufXor

/-- The decoder word DW (R89). -/
def Dec.word (d : Dec) (b : Byte) : BitVec 11 := BitVec.ofBool d.atLast ++ d.st.code ++ b

/-! ### The arbiter word (R91) -/

/-- `at_end = (a_cur == a_len + 4)` (R91). -/
def Arb.atEnd (a : Arb) : Bool := a.cur.toNat == a.len.toNat + 4

/-- `gap_last = (a_gap == 1)` (R91). -/
def Arb.gapLast (a : Arb) : Bool := a.gap == 1

/-- The arbiter word AW (R91). -/
def State.arbWord (s : State) : BitVec 7 :=
  BitVec.ofBool s.arb.gapLast ++ BitVec.ofBool s.arb.atEnd ++ BitVec.ofBool s.inp.txReady
    ++ BitVec.ofBool s.inp.txOpen ++ BitVec.ofBool (!s.pending.isEmpty) ++ s.arb.st.code

/-! ### The serializer (R164) -/

/-- `FRAME_BYTE(k)` (R164). Beyond `k = a_len + 4` the rule states no value: a free value (log 10). -/
def State.frameByteAt (s : State) (k : Nat) : Byte :=
  if k = 0 then Config.magic0
  else if k = 1 then Config.magic1
  else if k = 2 then s.arb.len
  else if k = 3 then s.arb.seqCtr
  else if k < s.arb.len.toNat + 4 then s.bodyAt (k - 4)
  else if k = s.arb.len.toNat + 4 then s.arb.csum
  else Config.freeByte .frameByte k s.tick

/-- The byte the serializer offers, `FRAME_BYTE(a_cur)` (R164). -/
def State.offeredByte (s : State) : Byte := s.frameByteAt s.arb.cur.toNat

/-- `tx_valid = (a_st == SEND) and (rst == 0)` (R41). -/
def State.txValid (s : State) : Bool := s.arb.st == .send && !s.inp.rst

/-- `tx_data` (R41): the offered byte, and unspecified while `tx_valid = 0`: a free value (I6). -/
def State.txData (s : State) : Byte :=
  if s.txValid then s.offeredByte else Config.freeByte .txData 0 s.tick

/-! ### The ports as outputs (R85) -/

/-- The output ports of R85. -/
structure Outputs where
  evValid : Bool
  evKind : BitVec 2
  evId : Byte
  evSeq : Byte
  evLen : BitVec 4
  /-- The observed list `ev_bytes[0 ..< ev_len]` (R29). -/
  evBytes : List Byte
  done : List Bool
  status : List (BitVec 1)
  txValid : Bool
  txData : Byte
  deriving DecidableEq, Repr

/-- The output ports in the present cycle: functions of the registers, and of `rst` for the transmit port (R13, R41). -/
def State.outputs (s : State) : Outputs :=
  { evValid := s.ev.valid, evKind := s.ev.kind.code, evId := s.ev.id, evSeq := s.ev.seq, evLen := s.ev.len,
    evBytes := s.eventBytes, done := s.arb.outs.map (·.done), status := s.arb.outs.map (·.status.code),
    txValid := s.txValid, txData := s.txData }

/-! ### The host's bodies (R95, R96, R200) -/

/-- `wrap16` (R200): an integer modulo 2^16. -/
def wrap16 (v : Int) : Wheel := BitVec.ofInt 16 v

/-- The velocity command body of two wheel values (R95). -/
def velocityBody (left right : Wheel) : List Byte :=
  [0x01, left.hi, left.lo, right.hi, right.lo, 0x00, 0x00, 0x00, 0x00]

/-- `VELBODY(left, right, m)` (R200). -/
def velBody (left right m : Int) : List Byte := velocityBody (wrap16 (left * m)) (wrap16 (right * m))

/-- The battery-query body `[0x02, P_BQ1]` (R96). -/
def batteryBody : List Byte := [0x02, Config.bq1]

end Sys2Proof.Machine
end

