-- ==== Sys2Proof/Machine/Flags.lean ====
section
/-! DEFINITION. Sys2Proof/Machine/Flags.lean: the only flags of the block (R42): the event registers, set by an emit (R31), and
`done[i]` with `status[i]`, set by a completion (R43). -/

namespace Sys2Proof.Machine

/-- `emit K(id, seq, L)` (R31). Entries of `ev_bytes` from `len(L)` on are unspecified (R29). -/
def State.emit (s : State) (kind : EvKind) (id seq : Byte) (bytes : List Byte) : State :=
  s.setEv { valid := true, kind := kind, id := id, seq := seq, len := BitVec.ofNat 4 bytes.length,
            bytes := Memory.fromList 0 bytes }

/-- An edge without an emit: `ev_valid <- 0`, the other event registers held (R30, R31). -/
def State.noEmit (s : State) : State := s.setEv { s.ev with valid := false }

/-- `done[j] <- 0` for every port (R43). -/
def Arb.clearDone (a : Arb) : Arb := { a with outs := a.outs.map fun o => { o with done := false } }

/-- The strobes and statuses after `done(i, c)` (R43). -/
def Arb.complete (a : Arb) (i : Nat) (c : SendStatus) : Arb :=
  { a.clearDone with outs := a.clearDone.outs.set i { done := true, status := c } }

/-- An arbiter edge without a completion: every strobe is cleared (R43). -/
def State.noDone (s : State) : State := s.setArb s.arb.clearDone

/-- `done(i, c)` (R43), for a port the block has. -/
def State.done (s : State) (i : Nat) (c : SendStatus) : Result :=
  if i < s.arb.outs.length then .next (s.setArb (s.arb.complete i c)) else .fault .noSuchPort

end Sys2Proof.Machine
end

