-- ==== Sys2Proof/Machine/Codec.lean ====
section
/-! DEFINITION. Sys2Proof/Machine/Codec.lean: the meanings of the codec rows: FRAME_BYTE (R164), CSUM_INIT and CSUM_STEP (R142),
ENCODE (R140), over the shared operations that the arbiter's rows use too. -/

namespace Sys2Proof.Machine

/-- `a_csum <- 0x00` (R142). -/
def Arb.csumInit (a : Arb) : Arb := { a with csum := 0x00 }

/-- `a_csum <- a_csum ^ b` (R142), `b` the byte offered. -/
def Arb.csumStep (a : Arb) (b : Byte) : Arb := { a with csum := a.csum ^^^ b }

/-- The transmit port's lines take their values for this cycle (R41, R164). -/
def State.driveTx (s : State) : State := s.setTx { s.tx with valid := s.txValid, data := s.txData }

/-- FRAME_BYTE (R164): the serializer offers `FRAME_BYTE(a_cur)` on the transmit port; `rst` gates the offer (R41). -/
def execFrameByte (s : State) : Result := .next s.driveTx

/-- CSUM_INIT (R142). -/
def execCsumInit (s : State) : Result := .next (s.setArb s.arb.csumInit)

/-- CSUM_STEP (R142): the offered byte is folded in. -/
def execCsumStep (s : State) : Result := .next (s.setArb (s.arb.csumStep s.offeredByte))

/-- ENCODE (R140) of the captured body with the current sequence number (R146): the frame that FRAME_BYTE walks. -/
def execEncode (s : State) : Result :=
  .next (s.setTx { s.tx with frame := encodeFrame s.capturedBody s.arb.seqCtr })

end Sys2Proof.Machine
end

