-- ==== Sys2Proof/Machine/Arbiter.lean ====
section
/-! DEFINITION. Sys2Proof/Machine/Arbiter.lean: the meanings of the arbiter rows (R161 to R170, and ARB_BAD_STATE of R32). At
every edge the strobes of the ports that do not complete are cleared (R43). -/

namespace Sys2Proof.Machine

/-- A send completes and the arbiter is IDLE again (R162, R167, R168, R170). -/
def State.completeSend (s : State) (i : Nat) (c : SendStatus) : Result :=
  andThen (s.done i c) fun t => .next (t.setArb { t.arb with st := .idle })

/-- ARB_IDLE_WAIT (R161). -/
def execArbIdleWait (s : State) : Result := .next s.noDone

/-- ARB_CLOSED_NOOP (R162): one pending port completes CLOSED; no byte, no gap, `seq_ctr` unchanged. -/
def execArbClosedNoop (s : State) : Result :=
  match s.arbChoice with
  | none => .refused .noPendingPort
  | some g => s.completeSend g .closed

/-- The arbiter registers after a grant of port `g` with its request (R163). The captured body is listed, the entries from
`a_len` on are unspecified (R34, I4). -/
def Arb.grant (a : Arb) (g : Nat) (r : ReqPort) : Arb :=
  { a.csumInit with st := .send, gnt := g, len := r.len, body := Memory.fromList 0 r.body, cur := 0 }

/-- ARB_GRANT (R163): a pending port gets the transport and its body is captured; no byte is transferred. -/
def execArbGrant (s : State) : Result :=
  match s.arbChoice with
  | none => .refused .noPendingPort
  | some g =>
    match s.inp.req[g]? with
    | none => .refused .noPendingPort
    | some r =>
      if r.len.toNat ≤ s.cfg.maxPayload then .next (s.setArb (s.arb.clearDone.grant g r))
      else .refused .requestTooLong

/-- ARB_SEND_STALL (R165): the same byte stays offered. -/
def execArbSendStall (s : State) : Result := .next s.noDone

/-- ARB_SEND_BYTE (R166): the offered byte is transferred and folded into the checksum. -/
def execArbSendByte (s : State) : Result :=
  let b := s.offeredByte
  .next ((s.transfer b).setArb { s.arb.clearDone.csumStep b with cur := s.arb.cur + 1 })

/-- ARB_SEND_LAST (R167): the checksum byte is transferred and the send is successful; then the gap, or the completion
at once where `P_GAP` is 0. -/
def execArbSendLast (s : State) : Result :=
  let t := s.transfer s.offeredByte
  let u := t.setArb { t.arb with seqCtr := t.arb.seqCtr + 1 }
  if s.cfg.gap == 0 then u.completeSend s.arb.gnt .ok
  else .next (u.setArb { u.arb.clearDone with gap := s.cfg.gap, st := .gap })

/-- ARB_SEND_ABORT (R168): the transport closed in a frame; no byte at this edge, `seq_ctr` unchanged, no gap. -/
def execArbSendAbort (s : State) : Result := s.completeSend s.arb.gnt .closed

/-- ARB_GAP_COUNT (R169). -/
def execArbGapCount (s : State) : Result := .next (s.setArb { s.arb.clearDone with gap := s.arb.gap - 1 })

/-- ARB_GAP_DONE (R170): the transport is released. -/
def execArbGapDone (s : State) : Result := s.completeSend s.arb.gnt .ok

/-- ARB_BAD_STATE (R32, I7): `a_st == 3`, which no rule enters, is a fault. -/
def execArbBadState (_s : State) : Result := .fault .badArbiterState

end Sys2Proof.Machine
end

