-- ==== Sys2Proof/Machine/Decoder.lean ====
section
/-! DEFINITION. Sys2Proof/Machine/Decoder.lean: the meanings of the decoder rows (R110 to R120), and the feed of one byte. A row's
selection by DW (R89) is the decoder's work; a meaning is the rule's pseudocode. -/

namespace Sys2Proof.Machine

/-- DEC_IDLE (R110): no byte; only `ev_valid` is cleared. -/
def execDecIdle (s : State) : Result := .next s.noEmit

/-- DEC_SEEK1_MAGIC (R111). -/
def execDecSeek1Magic (s : State) : Result := .next (s.goto .s2).noEmit

/-- DEC_SEEK1_DISCARD (R112): the byte is discarded. -/
def execDecSeek1Discard (_b : Byte) (s : State) : Result := .next (s.goto .s1).noEmit

/-- DEC_SEEK2_MAGIC (R113). -/
def execDecSeek2Magic (s : State) : Result := .next (s.goto .rl).noEmit

/-- DEC_SEEK2_DISCARD (R114): the byte is discarded, not examined again (90_conflicts.md C2). -/
def execDecSeek2Discard (_b : Byte) (s : State) : Result := .next s.resync.noEmit

/-- DEC_LEN_ACCEPT_2 (R115). -/
def execDecLenAccept2 (s : State) : Result := .next (s.acceptLen Config.len2).noEmit

/-- DEC_LEN_ACCEPT_9 (R116). -/
def execDecLenAccept9 (s : State) : Result := .next (s.acceptLen Config.len9).noEmit

/-- DEC_LEN_REJECT (R117): FrameDesync, silent. -/
def execDecLenReject (_b : Byte) (s : State) : Result := .next s.resync.noEmit

/-- DEC_FILL_STORE (R118). The buffer has entries 0..13 only. -/
def execDecFillStore (b : Byte) (s : State) : Result :=
  if s.dec.cur.toNat < Config.maxFrame then
    let t := s.bufWrite s.dec.cur.toNat b
    .next (t.setDec { t.dec with cur := s.dec.cur + 1, st := .fill }).noEmit
  else .fault .bufferIndex

/-- DEC_FILL_CHECK_OK (R119): the checksum byte is stored, compared with the XOR of the bytes before it, and a match
emits CommandReady. All reads take the values from before the edge. -/
def execDecFillCheckOk (b : Byte) (s : State) : Result :=
  if s.dec.dsize ≤ Config.maxFrame then
    let t := s.bufWrite (s.dec.dsize - 1) b
    if s.csumOk b then
      .next (t.resync.emit .ready (s.bufAt 4) (s.bufAt 3) (s.bufSlice 5 (s.dec.dsize - 6)))
    else .next t.noEmit
  else .fault .bufferIndex

/-- DEC_FILL_CHECK_BAD (R120): a mismatch emits ChecksumMismatch with the whole frame and the sentinel 0. -/
def execDecFillCheckBad (b : Byte) (s : State) : Result :=
  if s.dec.dsize ≤ Config.maxFrame then
    let t := s.bufWrite (s.dec.dsize - 1) b
    if s.csumOk b then .next t.noEmit
    else .next (t.resync.emit .mismatch 0x00 0x00 (s.bufSlice 0 (s.dec.dsize - 1) ++ [b]))
  else .fault .bufferIndex

/-- One byte accepted by the decoder (R110, R122): the state machine of 40_decoder.md, one row a byte. -/
def feed (b : Byte) (s : State) : Result :=
  match s.dec.st with
  | .s1 => if b == Config.magic0 then execDecSeek1Magic s else execDecSeek1Discard b s
  | .s2 => if b == Config.magic1 then execDecSeek2Magic s else execDecSeek2Discard b s
  | .rl =>
    if b == Config.len2 then execDecLenAccept2 s
    else if b == Config.len9 then execDecLenAccept9 s
    else execDecLenReject b s
  | .fill =>
    if s.dec.cur.toNat == s.dec.dsize - 1 then
      if s.csumOk b then execDecFillCheckOk b s else execDecFillCheckBad b s
    else execDecFillStore b s

end Sys2Proof.Machine
end

