-- ==== Sys2Proof/Machine/Frames.lean ====
section
/-! DEFINITION. Sys2Proof/Machine/Frames.lean: the meanings of the wire-frame rows (R80): the frame's bytes arrive in offset
order (R63) on consecutive beats (R86) and the decoder is fed each of them (R124, R264). -/

namespace Sys2Proof.Machine

/-- Consecutive beats (R86, R99 `FEED`). -/
def feedAll (bytes : List Byte) (s : State) : Result := forAll feed bytes s

/-- FRAME_LEN2 (R80, R81): a frame of 7 bytes. -/
def execFrameLen2 (seq id payload csum : Byte) (s : State) : Result :=
  feedAll [Config.magic0, Config.magic1, Config.len2, seq, id, payload, csum] s

/-- FRAME_LEN9 (R80, R81): a frame of 14 bytes. -/
def execFrameLen9 (seq id p0 p1 p2 p3 p4 p5 p6 p7 csum : Byte) (s : State) : Result :=
  feedAll [Config.magic0, Config.magic1, Config.len9, seq, id, p0, p1, p2, p3, p4, p5, p6, p7, csum] s

end Sys2Proof.Machine
end

