-- ==== Sys2Proof/Machine/Ids.lean ====
section
/-! DEFINITION. Sys2Proof/Machine/Ids.lean: the meanings of the ID rows (R92 to R97). The block gives no ID a meaning, so every
effect is the host's: a body handed to the requester of a port (R193, R204), or the consumer's reaction to a received
Command (R195, R196). -/

namespace Sys2Proof.Machine

/-- The battery poll's port (R204). -/
def batteryPort : Nat := 0
/-- The velocity activities' port (R204). -/
def velocityPort : Nat := 1
/-- The port of the GUI's one-shot sends (R204). -/
def guiPort : Nat := 2

/-- ID_VELOCITY (R95): the acting activity sends the velocity command body on port 1. -/
def execIdVelocity (left right : Wheel) (s : State) : Result := s.enqueue velocityPort (velocityBody left right)

/-- ID_BATTERY_QUERY (R96, R202): the battery-query body on port 0. -/
def execIdBatteryQuery (s : State) : Result := s.enqueue batteryPort batteryBody

/-- ID_BATTERY_REPORT (R97): the consumer takes the Command; the source gives no further reaction (R196). -/
def execIdBatteryReport (s : State) : Result := .next (s.call s.decodedCall)

/-- ID_RESET_ACK (R92): the consumer takes the Command; the source gives no further reaction (R196). -/
def execIdResetAck (s : State) : Result := .next (s.call s.decodedCall)

/-- ID_CLEAR_ENCODER (R92, R204): a one-shot send on port 2, its payload as given (91_not_in_source.md N4). -/
def execIdClearEncoder (payload : List Byte) (s : State) : Result := s.enqueue guiPort (0x06 :: payload)

/-- ID_TIMEOUT (R92, R196): the consumer takes the Command and the GUI asks for the reset send on port 2. -/
def execIdTimeout (s : State) : Result :=
  ((s.call s.decodedCall).actAs .gui).enqueue guiPort Config.resetBody

end Sys2Proof.Machine
end

