-- ==== Sys2Proof/Machine/Reset.lean ====
section
/-! DEFINITION. Sys2Proof/Machine/Reset.lean: the meaning of RESET (R250). -/

namespace Sys2Proof.Machine

/-- RESET (R250): every register of the block takes its value of R47 and nothing else happens; `tx_valid` is gated to 0
(R41). The environment is not reset: a requester that holds its request is pending again (R253). -/
def execReset (s : State) : Result :=
  .next { s with dec := Dec.reset, ev := Ev.reset, arb := Arb.reset s.cfg.nreq,
                 tx := { valid := false, data := Config.freeByte .txData 0 s.tick, frame := [] } }

end Sys2Proof.Machine
end

