-- ==== Sys2Proof/Machine/Dispatch.lean ====
section
/-! DEFINITION. Sys2Proof/Machine/Dispatch.lean: one arm per row of spec/opcode_table.json. -/

namespace Sys2Proof.Machine

/-- The meaning of a row. -/
def exec (i : Instr) (s : State) : Host.Outcome State Fault Refusal :=
  match i with
  | .decIdle => Sys2Proof.Machine.execDecIdle s
  | .decSeek1Magic => Sys2Proof.Machine.execDecSeek1Magic s
  | .decSeek1Discard b => Sys2Proof.Machine.execDecSeek1Discard b s
  | .decSeek2Magic => Sys2Proof.Machine.execDecSeek2Magic s
  | .decSeek2Discard b => Sys2Proof.Machine.execDecSeek2Discard b s
  | .decLenAccept2 => Sys2Proof.Machine.execDecLenAccept2 s
  | .decLenAccept9 => Sys2Proof.Machine.execDecLenAccept9 s
  | .decLenReject b => Sys2Proof.Machine.execDecLenReject b s
  | .decFillStore b => Sys2Proof.Machine.execDecFillStore b s
  | .decFillCheckOk b => Sys2Proof.Machine.execDecFillCheckOk b s
  | .decFillCheckBad b => Sys2Proof.Machine.execDecFillCheckBad b s
  | .arbIdleWait => Sys2Proof.Machine.execArbIdleWait s
  | .arbClosedNoop => Sys2Proof.Machine.execArbClosedNoop s
  | .arbGrant => Sys2Proof.Machine.execArbGrant s
  | .arbSendAbort => Sys2Proof.Machine.execArbSendAbort s
  | .arbSendStall => Sys2Proof.Machine.execArbSendStall s
  | .arbSendByte => Sys2Proof.Machine.execArbSendByte s
  | .arbSendLast => Sys2Proof.Machine.execArbSendLast s
  | .arbGapCount => Sys2Proof.Machine.execArbGapCount s
  | .arbGapDone => Sys2Proof.Machine.execArbGapDone s
  | .arbBadState => Sys2Proof.Machine.execArbBadState s
  | .frameByte => Sys2Proof.Machine.execFrameByte s
  | .csumInit => Sys2Proof.Machine.execCsumInit s
  | .csumStep => Sys2Proof.Machine.execCsumStep s
  | .encode => Sys2Proof.Machine.execEncode s
  | .reset => Sys2Proof.Machine.execReset s
  | .frameLen2 seq id payload csum => Sys2Proof.Machine.execFrameLen2 seq id payload csum s
  | .frameLen9 seq id p0 p1 p2 p3 p4 p5 p6 p7 csum => Sys2Proof.Machine.execFrameLen9 seq id p0 p1 p2 p3 p4 p5 p6 p7 csum s
  | .idVelocity left right => Sys2Proof.Machine.execIdVelocity left right s
  | .idBatteryQuery => Sys2Proof.Machine.execIdBatteryQuery s
  | .idBatteryReport => Sys2Proof.Machine.execIdBatteryReport s
  | .idResetAck => Sys2Proof.Machine.execIdResetAck s
  | .idClearEncoder payload => Sys2Proof.Machine.execIdClearEncoder payload s
  | .idTimeout => Sys2Proof.Machine.execIdTimeout s

end Sys2Proof.Machine
end

