-- ==== Sys2Proof/Machine/Agents.lean ====
section
/-! DEFINITION. Sys2Proof/Machine/Agents.lean: what the environment agents of 43_host_requesters.md do in one cycle, before
the clock edge: they see the block's outputs of this cycle and drive its inputs. A behaviour that R207 gives no move
has none here. -/

namespace Sys2Proof.Machine

/-! ### The lines of the transports (R191, R192) -/

/-- The environment's move in this cycle and what remains of the schedule. Past its end the move is a free value;
`rst` is then not asserted (R207(e)). -/
def State.nextMove (s : State) : Move × List Move :=
  match s.env.sched with
  | m :: rest => (m, rest)
  | [] => ({ Config.freeMove s.tick with rst := false }, [])

/-- The input lines take this cycle's values (R13, R86, R88). The spec gives `rx_data` no value while `rx_valid = 0`: it is a
free value then (log 21). -/
def State.sample (s : State) (m : Move) : State :=
  s.setInp { s.inp with rst := m.rst, rxValid := m.rx.isSome, rxData := m.rx.getD (Config.freeByte .rxData 0 s.tick),
                        txReady := m.txReady, txOpen := m.txOpen }

/-! ### The event consumer (R195, R196) -/

/-- The ID row of a Command in the event registers, if the source gives it one. A battery report has LEN 2 (R97). -/
def State.receivedRow (s : State) : Option Instr :=
  match decodeReceived s.ev.id with
  | .ok .idBatteryReport => if s.ev.len == 1 then some .idBatteryReport else none
  | .ok i => some i
  | .error _ => none

/-- The consumer takes the event in the event registers (R195) and dispatches a Command by its ID (R196). -/
def takeEvent (s : State) : Result :=
  match s.ev.kind with
  | .noEvent => .next s
  | .ready =>
    match s.receivedRow with
    | some i => exec i s
    | none => .next (s.call s.decodedCall)
  | .mismatch => .next (s.call s.failureCall)
  | .reserved => .fault .reservedEventKind

/-- An event is in the registers that the consumer has not read (R195). -/
def State.eventDue (s : State) : Bool := s.ev.valid || s.env.unread

/-- The coming edge overwrites the event registers, by the next event (R119, R120) or by reset (R253): the last cycle in
which the consumer may read them (R195). That it reads an unread event before a reset is a DESIGN CHOICE (log 26). -/
def State.mustRead (s : State) : Bool := s.inp.rst || (s.inp.rxValid && s.dec.atLast)

/-- The consumer's part of a cycle (R195): it takes a due event in this cycle, or leaves it for a later one while the
registers hold it. -/
def consume (late : Bool) (s : State) : Result :=
  if s.eventDue then
    if late && !s.mustRead then .next (s.setUnread true) else takeEvent (s.setUnread false)
  else .next s

/-! ### The polling supervisor (R197 to R206) -/

/-- A velocity set (R198): the generation token is incremented and captured, and a new activity starts. -/
def State.setVelocity (s : State) (left right : Int) : State :=
  s.setEnv { s.env with
    gen := s.env.gen + 1,
    vels := s.env.vels ++ [{ gen := s.env.gen + 1, left := left, right := right, mult := s.env.mult, phase := .check }] }

/-- A battery-poll activity starts, unless one runs (R203). -/
def State.startBattery (s : State) : State :=
  match s.env.batt with
  | none => s.setEnv { s.env with batt := some .check }
  | some _ => s

/-- The open sequence, when `tx_open` rises (R206). -/
def State.openSequence (wasOpen : Bool) (s : State) : State :=
  if s.inp.txOpen && !wasOpen then s.startBattery.setVelocity 0 0 else s

/-- Put the velocity activity of a generation into a phase. -/
def State.setPhase (s : State) (g : Nat) (p : Phase) : State :=
  s.setEnv { s.env with vels := s.env.vels.map fun v => if v.gen = g then { v with phase := p } else v }

/-- The velocity activity of a generation terminates (R199). -/
def State.endVelocity (s : State) (g : Nat) : State :=
  s.setEnv { s.env with vels := s.env.vels.filter fun v => v.gen != g }

/-- The battery-poll activity's part of this cycle (R202): check, wait, send. -/
def stepBattery (s : State) : Result :=
  match s.env.batt with
  | none => .next s
  | some .sending => .next s
  | some .check =>
    if s.inp.txOpen then .next (s.setEnv { s.env with batt := some (.wait s.cfg.battInterval) })
    else .next (s.setEnv { s.env with batt := none })
  | some (.wait n) =>
    if n ≤ 1 then exec .idBatteryQuery ((s.setEnv { s.env with batt := some .sending }).actAs .battery)
    else .next (s.setEnv { s.env with batt := some (.wait (n - 1)) })

/-- A velocity activity's part of this cycle (R199): check, wait, send, with no check after the wait. -/
def stepVelocity (v : Velocity) (s : State) : Result :=
  match v.phase with
  | .sending => .next s
  | .check =>
    if v.gen = s.env.gen ∧ s.inp.txOpen = true then .next (s.setPhase v.gen (.wait s.cfg.velInterval))
    else .next (s.endVelocity v.gen)
  | .wait n =>
    if n ≤ 1 then
      exec (.idVelocity (wrap16 (v.left * v.mult)) (wrap16 (v.right * v.mult)))
        ((s.setPhase v.gen .sending).actAs (.velocity v.gen))
    else .next (s.setPhase v.gen (.wait (n - 1)))

/-! ### The GUI's moves -/

/-- One action of the GUI (R198, R201, R204). A request may name any port, although R204's default assignment gives the GUI
port 2. DESIGN CHOICE (log 27). -/
def guiMove (m : GuiMove) (s : State) : Result :=
  match m with
  | .setVelocity l r => .next (s.setVelocity l r)
  | .selectMultiplier k =>
    if Config.multSet k then .next (s.setEnv { s.env with mult := k }) else .refused .multiplierNotSelectable
  | .request port body => (s.actAs .gui).enqueue port body
  | .clearEncoder payload => exec (.idClearEncoder payload) (s.actAs .gui)

/-! ### The requesters (R193, R194) -/

/-- An activity's `send` returns: it goes on to its next check. -/
def Env.returned (e : Env) (who : Sender) : Env :=
  match who with
  | .gui => e
  | .battery => { e with batt := e.batt.map fun p => if p = .sending then .check else p }
  | .velocity g =>
    { e with vels := e.vels.map fun v => if v.gen = g ∧ v.phase = .sending then { v with phase := .check } else v }

/-- In its done cycle a requester reads `status[i]` and withdraws its request (R193, R194). R258 also lets it keep the old
lines through the done cycle, in which the port is not eligible (R160), and drop or replace them in the next. DESIGN CHOICE
(log 29). -/
def returnPort (i : Nat) (s : State) : Result :=
  match s.env.lanes[i]?, s.inp.req[i]?, s.arb.outs[i]? with
  | some l, some r, some o =>
    if o.done && r.valid then
      let idle := ReqPort.withdrawn i s.cfg.maxPayload s.tick
      let t := s.setInp { s.inp with req := s.inp.req.set i idle }
      let e := { t.env with lanes := t.env.lanes.set i { l with result := some o.status } }
      .next (t.setEnv (e.returned l.owner))
    else .next s
  | _, _, _ => .next s

/-- A requester whose port carries no request presents one of the waiting sends (R193, R194), unless it holds it for a later
cycle; the spec gives no order among them, so it is a draw (log 20). A body longer than `P_MAX_PAYLOAD` is refused
(R207(b)). `req_data[i]` lists the body alone: its entries from `req_len[i]` on have no value (log 28, DESIGN CHOICE). -/
def raisePort (hold : List Nat) (i : Nat) (s : State) : Result :=
  if hold.contains i then .next s else
  match s.env.lanes[i]?, s.inp.req[i]? with
  | some l, some r =>
    if r.valid then .next s
    else
      match takeOne (Config.sendDraw s.tick i) l.waiting with
      | none => .next s
      | some (x, rest) =>
        if x.body.length ≤ s.cfg.maxPayload then
          let p : ReqPort := { valid := true, len := BitVec.ofNat 8 x.body.length, data := x.body }
          let t := s.setInp { s.inp with req := s.inp.req.set i p }
          .next (t.setEnv { t.env with lanes := t.env.lanes.set i { l with owner := x.owner, waiting := rest } })
        else .refused .requestTooLong
  | _, _ => .next s

/-! ### One cycle of the environment -/

/-- The schedule moves on and the lines take this cycle's values. -/
def State.takeMove (s : State) : State :=
  (s.setEnv { s.env with sched := s.nextMove.2 }).sample s.nextMove.1

/-- All that the environment does in a cycle: it samples its move, the consumer takes a due event, completed sends
return, the open sequence, the GUI's moves, the activities, and the requests raised. -/
def hostPhase (s : State) : Result :=
  andThen (consume s.nextMove.1.late s.takeMove) fun s1 =>
  andThen (forAll returnPort (List.range s1.cfg.nreq) s1) fun s2 =>
  andThen (forAll guiMove s.nextMove.1.gui (s2.openSequence s.inp.txOpen)) fun s3 =>
  andThen (stepBattery s3) fun s4 =>
  andThen (forAll stepVelocity s4.env.vels s4) fun s5 =>
  forAll (raisePort s.nextMove.1.hold) (List.range s5.cfg.nreq) s5

end Sys2Proof.Machine
end

