-- ==== Sys2Proof/Machine/Cycle.lean ====
section
/-! DEFINITION. Sys2Proof/Machine/Cycle.lean: one rising edge of `clk` (R13): the rows that the words select, and the placing of
a table word so that the next edge selects its row. -/

namespace Sys2Proof.Machine

/-- Run the row a word decodes to. -/
def runRow (row : Except Reject Instr) (s : State) : Result :=
  match row with
  | .ok i => exec i s
  | .error _ => .refused .undecodable

/-- The decoder's row at this edge (R90): DEC_IDLE without a byte, else the row DW selects. -/
def State.decRow (s : State) : Except Reject Instr :=
  if s.inp.rxValid then decodeDw (s.csumOk s.inp.rxData) (s.dec.word s.inp.rxData) else decodeRxValid false

/-- The arbiter's row at this edge (R91). -/
def State.arbRow (s : State) : Except Reject Instr := decodeAw s.arbWord

/-- The transmit port outside SEND and under reset (R41): `tx_valid` is 0 and `tx_data` a free value. -/
def State.idleTx (s : State) : State :=
  s.setTx { valid := false, data := Config.freeByte .txData 0 s.tick, frame := [] }

/-- The transmit port in this cycle: where AW selects them, the rows ENCODE and FRAME_BYTE (R140, R164). -/
def driveTxPort (s : State) : Result :=
  if s.arb.st == .send then
    andThen (runRow (decodeAwOp .encode 0x03 0x01 s.arbWord) s) fun t =>
      runRow (decodeAwOp .frameByte 0x03 0x01 t.arbWord) t
  else .next s.idleTx

/-- The edge without reset: the decoder's row and the arbiter's row, which share no register (R16, R225). -/
def runEdge (s : State) : Result :=
  andThen (driveTxPort s) fun t =>
  andThen (runRow t.decRow t) fun u => runRow u.arbRow u

/-- One edge: RESET has priority over every row (R224, R250). A request outside the block's contract is refused (R87). -/
def clockEdge (s : State) : Result :=
  match decodeRst s.inp.rst with
  | .ok i => exec i s
  | .error _ => if s.requestsLegal then runEdge s else .refused .requestTooLong

/-- One cycle: the environment drives the inputs, the edge samples them, the counter of the free values advances. -/
def cycle (s : State) : Result :=
  andThen (hostPhase s) fun t =>
  andThen (clockEdge t) fun u => .next u.advance

/-! ### Placing a table word -/

/-- A cycle in which the environment offers at most a byte and leaves the transmit lines as they are. -/
def State.beat (s : State) (rx : Option Byte) : Move :=
  { rst := false, rx := rx, txReady := s.inp.txReady, txOpen := s.inp.txOpen, gui := [] }

/-- Put moves in front of the schedule. -/
def State.schedule (s : State) (ms : List Move) : State := s.setEnv { s.env with sched := ms ++ s.env.sched }

/-- The environment with nothing to do of its own: no activity, no waiting send. -/
def Env.quiet (e : Env) : Env :=
  { e with vels := [], batt := none, lanes := e.lanes.map fun l => { l with waiting := [] } }

/-- The state of the code in DW[9:8] or AW[1:0] (R21). -/
def DecSt.ofCode (c : BitVec 2) : DecSt :=
  if c == 0 then .s1 else if c == 1 then .s2 else if c == 2 then .rl else .fill

/-- The arbiter state of a code (R32). -/
def ArbSt.ofCode (c : BitVec 2) : ArbSt :=
  if c == 0 then .idle else if c == 1 then .send else if c == 2 then .gap else .bad

/-- A decoder word: `st` and `at_last` as it says, its byte offered in the coming cycle. For a checksum row the
buffer's first six entries are made such that the byte is their XOR. -/
def State.placeDw (s : State) (w : BitVec 11) : State :=
  let b : Byte := w.extractLsb' 0 8
  let d : Dec := { s.dec with st := DecSt.ofCode (w.extractLsb' 8 2) }
  let t := s.schedule [s.beat (some b)]
  if d.st == .fill then
    if w.getLsbD 10 then
      t.setDec { d with dlen := Config.len2, cur := 6, buf := Memory.fromList 0 [b, 0, 0, 0, 0, 0] }
    else t.setDec { d with dlen := Config.len2, cur := 3 }
  else t.setDec d

/-- An arbiter word: each bit's register or line as it says (R91); with `pend` port 0 requests an empty body. -/
def State.placeAw (s : State) (w : BitVec 7) : State :=
  let open_ := w.getLsbD 3
  let ready := w.getLsbD 4
  let reqs := s.inp.req.map fun r => { r with valid := false }
  let reqs := if w.getLsbD 2 then reqs.set 0 { valid := true, len := 0, data := [] } else reqs
  let a := { s.arb.clearDone with
    st := ArbSt.ofCode (w.extractLsb' 0 2),
    cur := if w.getLsbD 5 then s.arb.len.setWidth 9 + 4 else 0,
    gap := if w.getLsbD 6 then 1 else 2 }
  let t := (s.setArb a).setInp { s.inp with txOpen := open_, req := reqs }
  let t := t.setEnv t.env.quiet
  t.schedule [{ rst := false, rx := none, txReady := ready, txOpen := open_, gui := [] }]

/-- A received ID: a Command of that ID is the event of the coming cycle. -/
def State.placeReceived (s : State) (id : Byte) : State :=
  (s.setEv { s.ev with valid := true, kind := .ready, id := id, len := 1 }).schedule [s.beat none]

/-- A table word stored where the next steps find it. A wire frame takes one cycle a byte. -/
def State.placeWord (s : State) (nbits w : Nat) : State :=
  match tableFormat nbits w with
  | .rst => s.schedule [{ s.beat none with rst := true }]
  | .rxValid => s.schedule [s.beat none]
  | .dw _ => s.placeDw (BitVec.ofNat 11 w)
  | .aw | .awOutput | .awGrantPart | .awBytePart | .awFrame => s.placeAw (BitVec.ofNat 7 w)
  | .receivedId => s.placeReceived (BitVec.ofNat 8 w)
  | .wire | .sentBody => s.schedule ((tableBytes nbits w).map fun b => s.beat (some b))

end Sys2Proof.Machine
end

