-- ==== Sys2Proof/Safety.lean ====
section
/-! DEFINITION. Sys2Proof/Safety.lean: what the spec says of every state of a run: the machine's invariant, part by part, in
the terms the statements use. -/

namespace Sys2Proof.Machine

/-- An array that lists exactly its first `n` entries. -/
def Memory.listsFirst (n : Nat) (m : Memory) : Prop := m.map Prod.fst = List.range n

/-- The bytes an array lists, in index order. -/
def Memory.bytes (m : Memory) : List Byte := m.map Prod.snd

/-- The decoder's part (R22, R23, R24): in FILL the length is an accepted one, the cursor is inside the frame, the
entries before it hold the frame's bytes, and the first three are the header. -/
structure Dec.Inv (d : Dec) : Prop where
  /-- `buf` is in canonical form. -/
  canonical : Memory.wf Config.maxFrame d.buf = true
  /-- R22. -/
  length : d.st = .fill → d.dlen = Config.len2 ∨ d.dlen = Config.len9
  /-- R23. -/
  cursor : d.st = .fill → 3 ≤ d.cur.toNat ∧ d.cur.toNat + 1 ≤ d.dsize
  /-- R24. -/
  filled : d.st = .fill → ∀ k, k < d.cur.toNat → ∃ b, Memory.get d.buf k = some b
  /-- R115, R116. -/
  header : d.st = .fill → Memory.get d.buf 0 = some Config.magic0 ∧ Memory.get d.buf 1 = some Config.magic1 ∧
    Memory.get d.buf 2 = some d.dlen

/-- The event registers' part (R26 to R29): the reserved kind never appears, and each kind has its lengths. -/
structure Ev.Inv (e : Ev) : Prop where
  /-- R26. -/
  kind : e.kind ≠ .reserved
  /-- R26: NONE only before the first event. -/
  none : e.kind = .noEvent → e.valid = false ∧ e.len = 0
  /-- R28. -/
  ready : e.kind = .ready → e.len = 1 ∨ e.len = 8
  /-- R27, R28. -/
  mismatch : e.kind = .mismatch → e.id = 0x00 ∧ e.seq = 0x00 ∧ (e.len = 7 ∨ e.len = 14)
  /-- R29. -/
  listed : Memory.listsFirst e.len.toNat e.bytes

/-- The arbiter's part (R32 to R39). -/
structure Arb.Inv (cfg : Params) (a : Arb) : Prop where
  /-- R32. -/
  state : a.st ≠ .bad
  /-- R39: one strobe and one status a port. -/
  ports : a.outs.length = cfg.nreq
  /-- R33. -/
  granted : a.gnt < cfg.nreq
  /-- R34. -/
  length : a.len.toNat ≤ cfg.maxPayload
  /-- R34. -/
  body : Memory.listsFirst a.len.toNat a.body
  /-- R35. -/
  cursor : a.st = .send → a.cur.toNat ≤ a.len.toNat + 4
  /-- R36: the running XOR of the frame bytes before the cursor. -/
  csum : a.st = .send → a.csum = xorReduce ((frameHead (Memory.bytes a.body) a.seqCtr).take a.cur.toNat)
  /-- R167, R169: the gap counter of a running gap is not 0. -/
  gap : a.st = .gap → a.gap ≠ 0
  /-- R43: at most one completion an edge. -/
  oneDone : (a.outs.filter fun o => o.done).length ≤ 1

/-- The request ports' part (R87): as many ports as the build has, each request with the data its length says, inside the
contract. -/
structure Inp.Inv (cfg : Params) (i : Inp) : Prop where
  /-- R85. -/
  ports : i.req.length = cfg.nreq
  /-- R87. -/
  requests : ∀ r ∈ i.req, r.valid = true → r.data.length = r.len.toNat ∧ r.len.toNat ≤ cfg.maxPayload

/-- The environment's part: a requester a port (R193), generations that only grow (R197, R198). -/
structure Env.Inv (cfg : Params) (e : Env) : Prop where
  /-- R190. -/
  lanes : e.lanes.length = cfg.nreq
  /-- R197, R198: no activity has a generation yet to come. -/
  generations : ∀ v ∈ e.vels, v.gen ≤ e.gen
  /-- R198: the activities' generations are strictly rising, oldest first. -/
  rising : (e.vels.map fun v => v.gen).Pairwise (· < ·)

/-- The machine's invariant. -/
structure State.Inv (s : State) : Prop where
  /-- R8. -/
  cfg : s.cfg.legal = true
  dec : Dec.Inv s.dec
  ev : Ev.Inv s.ev
  arb : Arb.Inv s.cfg s.arb
  inp : Inp.Inv s.cfg s.inp
  env : Env.Inv s.cfg s.env
  /-- R195: an event left unread is still in the registers, and no later one has come. -/
  unread : s.env.unread = true → s.ev.valid = false ∧ s.ev.kind ≠ .noEvent

/-- The three byte arrays are in canonical form (R60). -/
def State.arraysCanonical (s : State) : Prop :=
  Memory.wf Config.maxFrame s.dec.buf = true ∧ Memory.wf Config.maxFrame s.ev.bytes = true ∧
    Memory.wf s.cfg.maxPayload s.arb.body = true

/-! ### Frames: what two states share -/

/-- Only decoder and event registers may differ (R16). -/
def OnlyDecoder (s t : State) : Prop :=
  t.cfg = s.cfg ∧ t.arb = s.arb ∧ t.tx = s.tx ∧ t.inp = s.inp ∧ t.env = s.env ∧ t.tick = s.tick

/-- No event at this edge: `ev_valid` is 0, the other event registers are held (R30). -/
def NoEvent (s t : State) : Prop := t.ev = { s.ev with valid := false }

/-- Only arbiter registers and the bytes on the wire may differ (R16). -/
def OnlyArbiter (s t : State) : Prop :=
  t.cfg = s.cfg ∧ t.dec = s.dec ∧ t.ev = s.ev ∧ t.tx = s.tx ∧ t.inp = s.inp ∧
    t.env = { s.env with wire := t.env.wire } ∧ t.tick = s.tick

/-- Only the transmit port's lines may differ. -/
def OnlyTxPort (s t : State) : Prop :=
  t.cfg = s.cfg ∧ t.dec = s.dec ∧ t.ev = s.ev ∧ t.arb = s.arb ∧ t.inp = s.inp ∧ t.env = s.env ∧ t.tick = s.tick

/-- Only the environment may differ: every register of the block and every port is the same (R92). -/
def OnlyHost (s t : State) : Prop :=
  t.cfg = s.cfg ∧ t.dec = s.dec ∧ t.ev = s.ev ∧ t.arb = s.arb ∧ t.tx = s.tx ∧ t.inp = s.inp ∧ t.tick = s.tick

/-- Only the environment and the input ports it drives may differ (R190, R193). -/
def OnlyInputs (s t : State) : Prop :=
  t.cfg = s.cfg ∧ t.dec = s.dec ∧ t.ev = s.ev ∧ t.arb = s.arb ∧ t.tx = s.tx ∧ t.tick = s.tick

/-- `s` goes on to the state `t` by the row `i`. -/
def Runs (i : Instr) (s t : State) : Prop := exec i s = .next t

/-- No strobe is high after this edge, every status is held (R40, R43). -/
def NoCompletion (s t : State) : Prop :=
  t.arb.outs = s.arb.outs.map fun o => { o with done := false }

/-- Port `g` completes with status `c` at this edge, and no other port (R40, R43). -/
def Completes (g : Nat) (c : SendStatus) (s t : State) : Prop :=
  ∀ j, t.arb.outs[j]? =
    (s.arb.outs[j]?).map fun o => if j = g then { done := true, status := c } else { o with done := false }

/-! ### Runs of one part of the block, for statements about many edges -/

/-- One cycle of the receive port (R86): a byte, or none. -/
def feedBeat (rx : Option Byte) (s : State) : Result :=
  match rx with
  | some b => feed b s
  | none => execDecIdle s

/-- The event of this cycle as the consumer observes it (R195), if there is one. -/
def State.event (s : State) : Option HostCall :=
  if s.ev.valid then s.eventCall else none

/-- The events that a sequence of receive cycles emits, in order (R69). -/
def eventsOf (beats : List (Option Byte)) (s : State) : List HostCall :=
  match beats with
  | [] => []
  | rx :: rest =>
    match feedBeat rx s with
    | .next t => t.event.toList ++ eventsOf rest t
    | .fault _ => []
    | .refused _ => []

/-- What the consumer can observe after each of a sequence of receive cycles, a cycle at a time (R69, R123). -/
def traceOf (beats : List (Option Byte)) (s : State) : List (Option HostCall) :=
  match beats with
  | [] => []
  | rx :: rest =>
    match feedBeat rx s with
    | .next t => t.event :: traceOf rest t
    | .fault _ => []
    | .refused _ => []

/-- `n` edges of the arbiter alone, its inputs held (R16, R91). -/
def arbEdges (n : Nat) (s : State) : Result :=
  match n with
  | 0 => .next s
  | k + 1 => andThen (runRow s.arbRow s) (arbEdges k)

end Sys2Proof.Machine
end

