-- ==== Sys2Proof/Certificates/Slice0/Obligations.lean ====
section
/-! DEFINITION. Sys2Proof/Certificates/Slice0/Obligations.lean: the statements for the provers, from the numbered rules of spec/. -/

open Sys2Proof Sys2Proof.Machine

/-! ### The decoder rows (40_decoder.md) -/

/-- R110: without a byte the decoder registers hold and `ev_valid` falls; with one, exactly the row that DW selects is
applied, one of the rows of R111 to R120; `ev_valid` rises only by the rows of R119 and R120. -/
def Obligations.FeedBeatSelectsOneRow : Prop :=
  ∀ s : State,
    (s.inp.rxValid = false →
      s.decRow = .ok .decIdle ∧ ∃ t, Runs .decIdle s t ∧ t.dec = s.dec ∧ NoEvent s t ∧ OnlyDecoder s t) ∧
    (s.inp.rxValid = true → ∃ i, s.decRow = .ok i ∧
      decodeDw (s.csumOk s.inp.rxData) (s.dec.word s.inp.rxData) = .ok i ∧
      (i = .decSeek1Magic ∨ i = .decSeek1Discard s.inp.rxData ∨ i = .decSeek2Magic ∨
        i = .decSeek2Discard s.inp.rxData ∨ i = .decLenAccept2 ∨ i = .decLenAccept9 ∨
        i = .decLenReject s.inp.rxData ∨ i = .decFillStore s.inp.rxData ∨ i = .decFillCheckOk s.inp.rxData ∨
        i = .decFillCheckBad s.inp.rxData) ∧
      ∀ t, exec i s = .next t →
        (t.ev.valid = true ↔ i = .decFillCheckOk s.inp.rxData ∨ i = .decFillCheckBad s.inp.rxData))

/-- R111, R112: in SeekFirstMagic a 0x55 leads to SeekSecondMagic and is not stored; any other byte is discarded. -/
def Obligations.SeekFirstMagicRows : Prop :=
  ∀ s : State, s.dec.st = .s1 →
    (s.dec.word 0x55 = 0x055 ∧ (∀ ok, decodeDw ok (s.dec.word 0x55) = .ok .decSeek1Magic) ∧
      ∃ t, Runs .decSeek1Magic s t ∧ t.dec = { s.dec with st := .s2 } ∧ NoEvent s t ∧ OnlyDecoder s t) ∧
    ∀ b : Byte, b ≠ 0x55 → (∀ ok, decodeDw ok (s.dec.word b) = .ok (.decSeek1Discard b)) ∧
      ∃ t, Runs (.decSeek1Discard b) s t ∧ t.dec = s.dec ∧ NoEvent s t ∧ OnlyDecoder s t

/-- R113, R114: in SeekSecondMagic a 0xAA leads to ReadLength; any other byte is discarded and the decoder returns to
SeekFirstMagic without examining it again: a 0xAA after it is discarded there. -/
def Obligations.SeekSecondMagicRows : Prop :=
  ∀ s : State, s.dec.st = .s2 →
    (s.dec.word 0xAA = 0x1AA ∧ (∀ ok, decodeDw ok (s.dec.word 0xAA) = .ok .decSeek2Magic) ∧
      ∃ t, Runs .decSeek2Magic s t ∧ t.dec = { s.dec with st := .rl } ∧ NoEvent s t ∧ OnlyDecoder s t) ∧
    ∀ b : Byte, b ≠ 0xAA → (∀ ok, decodeDw ok (s.dec.word b) = .ok (.decSeek2Discard b)) ∧
      ∃ t, Runs (.decSeek2Discard b) s t ∧ t.dec = { s.dec with st := .s1 } ∧ NoEvent s t ∧ OnlyDecoder s t ∧
        ∃ u, feed 0xAA t = .next u ∧ u.dec.st = .s1

/-- R115, R116: an accepted LEN seeds the buffer with the header, sets the cursor to 3 and enters FILL; the entries from
3 on keep their stale values. -/
def Obligations.LengthAcceptRows : Prop :=
  ∀ s : State, s.dec.st = .rl →
    (s.dec.word 0x02 = 0x202 ∧ (∀ ok, decodeDw ok (s.dec.word 0x02) = .ok .decLenAccept2) ∧
      ∃ t, Runs .decLenAccept2 s t ∧ t.dec.st = .fill ∧ t.dec.dlen = 0x02 ∧ t.dec.dsize = 7 ∧ t.dec.cur = 3 ∧
        t.bufAt 0 = 0x55 ∧ t.bufAt 1 = 0xAA ∧ t.bufAt 2 = 0x02 ∧ (∀ k, 3 ≤ k → t.bufAt k = s.bufAt k) ∧
        NoEvent s t ∧ OnlyDecoder s t) ∧
    (s.dec.word 0x09 = 0x209 ∧ (∀ ok, decodeDw ok (s.dec.word 0x09) = .ok .decLenAccept9) ∧
      ∃ t, Runs .decLenAccept9 s t ∧ t.dec.st = .fill ∧ t.dec.dlen = 0x09 ∧ t.dec.dsize = 14 ∧ t.dec.cur = 3 ∧
        t.bufAt 0 = 0x55 ∧ t.bufAt 1 = 0xAA ∧ t.bufAt 2 = 0x09 ∧ (∀ k, 3 ≤ k → t.bufAt k = s.bufAt k) ∧
        NoEvent s t ∧ OnlyDecoder s t)

/-- R117: a LEN byte outside {2, 9} is consumed silently and the decoder returns to SeekFirstMagic, not
examining it again: a 0xAA and a 0x02 after it are discarded. -/
def Obligations.LengthRejectRow : Prop :=
  ∀ (s : State) (b : Byte), s.dec.st = .rl → b ≠ 0x02 → b ≠ 0x09 →
    (∀ ok, decodeDw ok (s.dec.word b) = .ok (.decLenReject b)) ∧
    ∃ t, Runs (.decLenReject b) s t ∧ t.dec = { s.dec with st := .s1 } ∧ NoEvent s t ∧ OnlyDecoder s t ∧
      ∃ u, feedAll [0xAA, 0x02] t = .next u ∧ u.dec.st = .s1

/-- R118: before the checksum slot a byte is stored at the cursor, whatever its value, and the cursor advances. -/
def Obligations.FillStoreRow : Prop :=
  ∀ (s : State) (b : Byte), s.dec.st = .fill → s.dec.cur.toNat + 1 < s.dec.dsize → s.dec.cur.toNat < 14 →
    (∀ ok, decodeDw ok (s.dec.word b) = .ok (.decFillStore b)) ∧
    ∃ t, Runs (.decFillStore b) s t ∧ t.dec.st = .fill ∧ t.dec.dlen = s.dec.dlen ∧
      t.dec.cur.toNat = s.dec.cur.toNat + 1 ∧ t.bufAt s.dec.cur.toNat = b ∧
      (∀ k, k ≠ s.dec.cur.toNat → t.bufAt k = s.bufAt k) ∧ NoEvent s t ∧ OnlyDecoder s t

/-- R119: at the checksum slot a byte equal to the XOR of the bytes before it is stored and emits CommandReady with the
frame's ID, SEQ and payload. -/
def Obligations.FillCheckOkRow : Prop :=
  ∀ (s : State) (b : Byte), s.dec.st = .fill → s.dec.cur.toNat + 1 = s.dec.dsize → s.dec.dsize ≤ 14 →
    b = xorReduce (s.bufSlice 0 (s.dec.dsize - 1)) →
    decodeDw (s.csumOk b) (s.dec.word b) = .ok (.decFillCheckOk b) ∧
    ∃ t, Runs (.decFillCheckOk b) s t ∧ t.dec.st = .s1 ∧ t.dec.dlen = s.dec.dlen ∧ t.dec.cur = s.dec.cur ∧
      t.bufAt (s.dec.dsize - 1) = b ∧ (∀ k, k ≠ s.dec.dsize - 1 → t.bufAt k = s.bufAt k) ∧
      t.ev.valid = true ∧ t.ev.kind = .ready ∧ t.ev.id = s.bufAt 4 ∧ t.ev.seq = s.bufAt 3 ∧
      t.ev.len.toNat = s.dec.dlen.toNat - 1 ∧ t.eventBytes = s.bufSlice 5 (s.dec.dlen.toNat - 1) ∧ OnlyDecoder s t

/-- R120: at the checksum slot any other byte is stored and emits ChecksumMismatch with the whole raw frame and the
sentinel 0 for ID and SEQ. -/
def Obligations.FillCheckBadRow : Prop :=
  ∀ (s : State) (b : Byte), s.dec.st = .fill → s.dec.cur.toNat + 1 = s.dec.dsize → s.dec.dsize ≤ 14 →
    b ≠ xorReduce (s.bufSlice 0 (s.dec.dsize - 1)) →
    decodeDw (s.csumOk b) (s.dec.word b) = .ok (.decFillCheckBad b) ∧
    ∃ t, Runs (.decFillCheckBad b) s t ∧ t.dec.st = .s1 ∧ t.dec.dlen = s.dec.dlen ∧ t.dec.cur = s.dec.cur ∧
      t.bufAt (s.dec.dsize - 1) = b ∧ (∀ k, k ≠ s.dec.dsize - 1 → t.bufAt k = s.bufAt k) ∧
      t.ev.valid = true ∧ t.ev.kind = .mismatch ∧ t.ev.id = 0x00 ∧ t.ev.seq = 0x00 ∧
      t.ev.len.toNat = s.dec.dlen.toNat + 5 ∧ t.eventBytes = s.bufSlice 0 (s.dec.dsize - 1) ++ [b] ∧ OnlyDecoder s t

/-- R89, R90: the row DW selects does what the state machine of 40_decoder.md does with the byte, in every state. -/
def Obligations.SelectedRowIsStateMachine : Prop :=
  ∀ (s : State) (b : Byte), ∃ i, decodeDw (s.csumOk b) (s.dec.word b) = .ok i ∧ exec i s = feed b s

/-- R121: at the checksum slot the accepting row applies exactly when the XOR of the whole frame is 0. -/
def Obligations.AcceptedIffXorZero : Prop :=
  ∀ (s : State) (b : Byte), s.dec.st = .fill → s.dec.cur.toNat + 1 = s.dec.dsize →
    (decodeDw (s.csumOk b) (s.dec.word b) = .ok (.decFillCheckOk b) ↔
      xorReduce (s.bufSlice 0 (s.dec.dsize - 1) ++ [b]) = 0x00)

/-- R122: in every state of the decoder's invariant (R22 to R24) the decoder takes any byte, and from every such state it is
in SeekFirstMagic again after at most 13 more bytes. -/
def Obligations.DecoderNeverStuck : Prop :=
  ∀ s : State, Dec.Inv s.dec →
    (∀ b, ∃ t, feed b s = .next t ∧ Dec.Inv t.dec) ∧
    ∀ bytes : List Byte, bytes.length = 13 → ∃ k, k ≤ 13 ∧ ∃ t, feedAll (bytes.take k) s = .next t ∧ t.dec.st = .s1

/-- R123: the events, and the byte at whose edge each is emitted, depend on the accepted bytes only, not on the idle cycles
between them; an idle cycle emits nothing. -/
def Obligations.IncrementalEquivalence : Prop :=
  ∀ (beats : List (Option Byte)) (s : State),
    eventsOf beats s = eventsOf ((beats.filterMap id).map some) s ∧
    ((beats.zip (traceOf beats s)).filter fun x => x.1.isSome).map Prod.snd =
      traceOf ((beats.filterMap id).map some) s ∧
    ∀ k : Nat, beats[k]? = some none → ∀ c, (traceOf beats s)[k]? ≠ some (some c)

/-- R124: from SeekFirstMagic the frame of a body of 2 or 9 bytes emits nothing before its last byte, which emits
CommandReady with the body's ID, the sequence byte and the rest of the body; the decoder ends in SeekFirstMagic. -/
def Obligations.EncodeDecodeRoundTrip : Prop :=
  ∀ (s : State) (id seq : Byte) (payload : List Byte), s.dec.st = .s1 → payload.length = 1 ∨ payload.length = 8 →
    eventsOf (((encodeFrame (id :: payload) seq).dropLast).map some) s = [] ∧
    ∃ t, feedAll (encodeFrame (id :: payload) seq) s = .next t ∧ t.dec.st = .s1 ∧
      t.event = some (.onDecoded id seq payload)

/-- R80, R119, R120: the row FRAME_LEN2 from SeekFirstMagic, with a right checksum and with a wrong one. That the row is its
seven bytes fed in order, at which only decoder and event registers change and no arbiter edge runs, is the model's choice
(log 15, DEDUCED). -/
def Obligations.FrameLen2Received : Prop :=
  ∀ (s : State) (seq id p c : Byte), s.dec.st = .s1 →
    ∃ t, Runs (.frameLen2 seq id p c) s t ∧ t.dec.st = .s1 ∧ OnlyDecoder s t ∧ t.ev.valid = true ∧
      [t.bufAt 0, t.bufAt 1, t.bufAt 2, t.bufAt 3, t.bufAt 4, t.bufAt 5, t.bufAt 6] = [0x55, 0xAA, 0x02, seq, id, p, c] ∧
      (∀ k, 7 ≤ k → t.bufAt k = s.bufAt k) ∧
      if c = xorReduce [0x55, 0xAA, 0x02, seq, id, p] then
        t.ev.kind = .ready ∧ t.ev.id = id ∧ t.ev.seq = seq ∧ t.eventBytes = [p]
      else t.ev.kind = .mismatch ∧ t.ev.id = 0 ∧ t.ev.seq = 0 ∧ t.eventBytes = [0x55, 0xAA, 0x02, seq, id, p, c]

/-- R80, R119, R120: the row FRAME_LEN9 from SeekFirstMagic, with a right checksum and with a wrong one. That the row is its
fourteen bytes fed in order, at which only decoder and event registers change and no arbiter edge runs, is the model's
choice (log 15, DEDUCED). -/
def Obligations.FrameLen9Received : Prop :=
  ∀ (s : State) (seq id p0 p1 p2 p3 p4 p5 p6 p7 c : Byte), s.dec.st = .s1 →
    ∃ t, Runs (.frameLen9 seq id p0 p1 p2 p3 p4 p5 p6 p7 c) s t ∧ t.dec.st = .s1 ∧ OnlyDecoder s t ∧ t.ev.valid = true ∧
      (List.range 14).map t.bufAt = [0x55, 0xAA, 0x09, seq, id, p0, p1, p2, p3, p4, p5, p6, p7, c] ∧
      (∀ k, 14 ≤ k → t.bufAt k = s.bufAt k) ∧
      if c = xorReduce [0x55, 0xAA, 0x09, seq, id, p0, p1, p2, p3, p4, p5, p6, p7] then
        t.ev.kind = .ready ∧ t.ev.id = id ∧ t.ev.seq = seq ∧ t.eventBytes = [p0, p1, p2, p3, p4, p5, p6, p7]
      else t.ev.kind = .mismatch ∧ t.ev.id = 0 ∧ t.ev.seq = 0 ∧
        t.eventBytes = [0x55, 0xAA, 0x09, seq, id, p0, p1, p2, p3, p4, p5, p6, p7, c]

/-- R122: a wire frame is taken from every decoder state that can occur, whatever becomes of it. That a frame row is its
bytes fed in order, at which only decoder and event registers change, is the model's choice (log 15, DEDUCED). -/
def Obligations.FramesTakenAnywhere : Prop :=
  ∀ s : State, Dec.Inv s.dec →
    (∀ seq id p c : Byte, ∃ t, Runs (.frameLen2 seq id p c) s t ∧ Dec.Inv t.dec ∧ OnlyDecoder s t) ∧
    ∀ seq id p0 p1 p2 p3 p4 p5 p6 p7 c : Byte,
      ∃ t, Runs (.frameLen9 seq id p0 p1 p2 p3 p4 p5 p6 p7 c) s t ∧ Dec.Inv t.dec ∧ OnlyDecoder s t

/-- R125: after an event and after a rejected LEN the decoder is in SeekFirstMagic and the valid frame that follows is
decoded; so a frame with a corrupted checksum and a valid one give exactly one ChecksumMismatch and one CommandReady, and a
rejected LEN and a valid frame exactly one CommandReady. -/
def Obligations.RecoveryAfterAnomaly : Prop :=
  ∀ (s : State) (id1 seq1 id2 seq2 e l : Byte) (p1 p2 : List Byte), s.dec.st = .s1 →
    p1.length = 1 ∨ p1.length = 8 → p2.length = 1 ∨ p2.length = 8 → e ≠ 0 → l ≠ 0x02 → l ≠ 0x09 →
    let bad := frameHead (id1 :: p1) seq1 ++ [xorReduce (frameHead (id1 :: p1) seq1) ^^^ e]
    eventsOf ((bad ++ encodeFrame (id2 :: p2) seq2).map some) s =
      [.onChecksumFailure bad, .onDecoded id2 seq2 p2] ∧
    eventsOf (([0x55, 0xAA, l] ++ encodeFrame (id2 :: p2) seq2).map some) s = [.onDecoded id2 seq2 p2] ∧
    ∀ (u t : State) (b : Byte), feed b u = .next t → t.ev.valid = true ∨ (u.dec.st = .rl ∧ b ≠ 0x02 ∧ b ≠ 0x09) →
      t.dec.st = .s1 ∧ eventsOf ((encodeFrame (id2 :: p2) seq2).map some) t = [.onDecoded id2 seq2 p2]

/-- R126, R114: from SeekFirstMagic the bytes 0x55 0x55 0xAA leave the decoder registers as they were, so that what comes
after them gives the events it gives without them, whatever it is: no byte-by-byte rescan; when it holds no further 0x55,
a frame after an extra 0x55 is lost. -/
def Obligations.NoRescanAfterDiscard : Prop :=
  ∀ s : State, s.dec.st = .s1 →
    (∃ t, feedAll [0x55, 0x55, 0xAA] s = .next t ∧ t.dec = s.dec ∧ NoEvent s t ∧ OnlyDecoder s t) ∧
    ∀ rest : List Byte,
      eventsOf ((0x55 :: 0x55 :: 0xAA :: rest).map some) s = eventsOf (rest.map some) s ∧
      ((∀ b ∈ rest, b ≠ 0x55) →
        eventsOf ((0x55 :: 0x55 :: 0xAA :: rest).map some) s = [] ∧
        ∃ t, feedAll (0x55 :: 0x55 :: 0xAA :: rest) s = .next t ∧ t.dec = s.dec)

/-- R129: an event leaves the decoder in SeekFirstMagic, and from there at most 6 bytes emit nothing: two events are at
least 7 accepted bytes apart. -/
def Obligations.EventsSevenBytesApart : Prop :=
  (∀ (s t : State) (b : Byte), feed b s = .next t → t.ev.valid = true → t.dec.st = .s1) ∧
  ∀ (s : State) (bytes : List Byte), s.dec.st = .s1 → bytes.length ≤ 6 → eventsOf (bytes.map some) s = []

/-- R148: one wrong bit in the SEQ, ID, payload or checksum byte of a frame yields ChecksumMismatch with the frame as
received; one wrong bit in a magic byte leaves the decoder in SeekFirstMagic with no event, unless the later bytes hold a
header; one wrong bit in LEN rejects the frame at ReadLength. -/
def Obligations.SingleBitErrorDetected : Prop :=
  ∀ (s : State) (id seq : Byte) (payload : List Byte) (j : Nat), s.dec.st = .s1 →
    payload.length = 1 ∨ payload.length = 8 → j < 8 →
    (∀ k, 3 ≤ k → k < payload.length + 6 →
      let received := (encodeFrame (id :: payload) seq).modify k fun b => b ^^^ BitVec.twoPow 8 j
      eventsOf (received.map some) s = [.onChecksumFailure received]) ∧
    (∀ k, k < 2 →
      let received := (encodeFrame (id :: payload) seq).modify k fun b => b ^^^ BitVec.twoPow 8 j
      (∃ t, feedAll (received.take (k + 1)) s = .next t ∧ t.dec = s.dec) ∧
      ((∀ i, k < i → received[i]? = some 0x55 → received[i + 1]? ≠ some 0xAA) →
        eventsOf (received.map some) s = [])) ∧
    let received := (encodeFrame (id :: payload) seq).modify 2 fun b => b ^^^ BitVec.twoPow 8 j
    eventsOf ((received.take 3).map some) s = [] ∧
      ∃ t, feedAll (received.take 3) s = .next t ∧ t.dec = s.dec

/-! ### The encoder and the checksum generator (41_encoder.md) -/

/-- R140, R144: the frame of a body of fewer than 256 bytes, and its checksum in closed form. -/
def Obligations.EncodeFrameClosedForm : Prop :=
  ∀ (body : List Byte) (seq : Byte), body.length < 256 →
    encodeFrame body seq =
      [0x55, 0xAA, BitVec.ofNat 8 body.length, seq] ++ body ++
        [0xFF ^^^ BitVec.ofNat 8 body.length ^^^ seq ^^^ xorReduce body] ∧
    (encodeFrame body seq).length = body.length + 5 ∧ xorReduce (encodeFrame body seq) = 0x00

/-- R140, R146: the row ENCODE forms the frame of the captured body with the sequence counter's value. R140 gives ENCODE no
state: that the row keeps the frame in `tx.frame` and changes nothing else is the model's choice (logs 3 and 15). -/
def Obligations.EncodeRow : Prop :=
  ∀ s : State, ∃ t, Runs .encode s t ∧ t.tx.frame = encodeFrame s.capturedBody s.arb.seqCtr ∧
    t.tx.valid = s.tx.valid ∧ t.tx.data = s.tx.data ∧ OnlyTxPort s t

/-- R164, R41: in SEND without reset the row FRAME_BYTE offers the byte that the cursor names; otherwise `tx_valid` is 0. -/
def Obligations.FrameByteRow : Prop :=
  ∀ s : State, ∃ t, Runs .frameByte s t ∧ t.tx.frame = s.tx.frame ∧ OnlyTxPort s t ∧
    (t.tx.valid = true ↔ s.arb.st = .send ∧ s.inp.rst = false) ∧
    (s.arb.st = .send → s.inp.rst = false →
      (s.arb.cur = 0 → t.tx.data = 0x55) ∧ (s.arb.cur = 1 → t.tx.data = 0xAA) ∧
      (s.arb.cur = 2 → t.tx.data = s.arb.len) ∧ (s.arb.cur = 3 → t.tx.data = s.arb.seqCtr) ∧
      (4 ≤ s.arb.cur.toNat → s.arb.cur.toNat ≤ s.arb.len.toNat + 3 → t.tx.data = s.bodyAt (s.arb.cur.toNat - 4)) ∧
      (s.arb.cur.toNat = s.arb.len.toNat + 4 → t.tx.data = s.arb.csum))

/-- R142: CSUM_INIT clears the running XOR, CSUM_STEP folds the offered byte into it; nothing else changes. -/
def Obligations.ChecksumRows : Prop :=
  ∀ s : State,
    (∃ t, Runs .csumInit s t ∧ t.arb = { s.arb with csum := 0x00 } ∧ OnlyArbiter s t ∧ t.env = s.env) ∧
    ∃ t, Runs .csumStep s t ∧ t.arb = { s.arb with csum := s.arb.csum ^^^ s.offeredByte } ∧ OnlyArbiter s t ∧
      t.env = s.env

/-- R143, R164: in SEND the byte offered is the byte of ENCODE of the captured body that the cursor names, the checksum
byte among them: there the running XOR is the XOR of the bytes before it. -/
def Obligations.OfferedByteIsFrameByte : Prop :=
  ∀ s : State, Arb.Inv s.cfg s.arb → s.arb.st = .send →
    (encodeFrame s.capturedBody s.arb.seqCtr)[s.arb.cur.toNat]? = some s.offeredByte ∧
    (s.arb.cur.toNat = s.arb.len.toNat + 4 →
      s.arb.csum = xorReduce ((encodeFrame s.capturedBody s.arb.seqCtr).take (s.arb.len.toNat + 4)) ∧
      s.offeredByte = s.arb.csum)

/-! ### The arbiter rows (42_arbiter.md) -/

/-- R160: the ports of PENDING are those that request and are not in their done cycle; PENDING is read only in IDLE, so that
a request arriving in SEND or in GAP waits. -/
def Obligations.PendingPorts : Prop :=
  ∀ s : State,
    (∀ i : Nat, i ∈ s.pending ↔
      i < s.cfg.nreq ∧ ∃ r o, s.inp.req[i]? = some r ∧ s.arb.outs[i]? = some o ∧ r.valid = true ∧ o.done = false) ∧
    (s.arb.st = .send ∨ s.arb.st = .gap → ∀ reqs, (s.setInp { s.inp with req := reqs }).arbRow = s.arbRow ∧
      ∀ t, runRow s.arbRow s = .next t →
        runRow s.arbRow (s.setInp { s.inp with req := reqs }) = .next (t.setInp { s.inp with req := reqs }))

/-- R91: the fields of the arbiter word; and every word matches exactly one of the ten rows, which the decoder answers. -/
def Obligations.ArbiterRowsPartition : Prop :=
  (∀ s : State, s.arbWord.extractLsb' 0 2 = s.arb.st.code ∧ (s.arbWord.getLsbD 2 = true ↔ s.pending ≠ []) ∧
    s.arbWord.getLsbD 3 = s.inp.txOpen ∧ s.arbWord.getLsbD 4 = s.inp.txReady ∧
    (s.arbWord.getLsbD 5 = true ↔ s.arb.cur.toNat = s.arb.len.toNat + 4) ∧
    (s.arbWord.getLsbD 6 = true ↔ s.arb.gap = 1)) ∧
  ∀ w : BitVec 7, ∃ r : BitVec 7 × BitVec 7 × Instr,
    (([(0x07, 0x00, .arbIdleWait), (0x0F, 0x04, .arbClosedNoop), (0x0F, 0x0C, .arbGrant), (0x0B, 0x01, .arbSendAbort),
      (0x1B, 0x09, .arbSendStall), (0x3B, 0x19, .arbSendByte), (0x3B, 0x39, .arbSendLast), (0x43, 0x02, .arbGapCount),
      (0x43, 0x42, .arbGapDone), (0x03, 0x03, .arbBadState)] : List (BitVec 7 × BitVec 7 × Instr)).filter
        fun r => rowMatches w r.1 r.2.1) = [r] ∧ decodeAw w = .ok r.2.2

/-- R161: IDLE with nothing pending: no register changes but the strobes, which are cleared. -/
def Obligations.IdleWaitRow : Prop :=
  ∀ s : State, s.arb.st = .idle → s.pending = [] →
    s.arbRow = .ok .arbIdleWait ∧ ∃ t, Runs .arbIdleWait s t ∧ t.arb = { s.arb with outs := t.arb.outs } ∧
      NoCompletion s t ∧ OnlyArbiter s t ∧ t.env = s.env

/-- R162: IDLE, pending, transport closed: one pending port completes CLOSED, with no byte, no gap and the sequence counter
as it was. -/
def Obligations.ClosedNoopRow : Prop :=
  ∀ s : State, s.arb.st = .idle → s.pending ≠ [] → s.inp.txOpen = false →
    s.arbRow = .ok .arbClosedNoop ∧ ∃ g ∈ s.pending, ∃ t, Runs .arbClosedNoop s t ∧ Completes g .closed s t ∧
      t.arb = { s.arb with outs := t.arb.outs } ∧ OnlyArbiter s t ∧ t.env = s.env

/-- R163: IDLE, pending, transport open: a pending port is granted, its body captured, cursor and checksum cleared; no byte
is transferred. -/
def Obligations.GrantRow : Prop :=
  ∀ s : State, s.arb.st = .idle → s.pending ≠ [] → s.inp.txOpen = true → s.requestsLegal = true →
    s.arbRow = .ok .arbGrant ∧ ∃ g ∈ s.pending, ∃ r, s.inp.req[g]? = some r ∧ ∃ t, Runs .arbGrant s t ∧
      t.arb.st = .send ∧ t.arb.gnt = g ∧ t.arb.len = r.len ∧ t.arb.cur = 0 ∧ t.arb.csum = 0x00 ∧
      (∀ (k : Nat) (b : Byte), k < r.len.toNat → r.data[k]? = some b → t.bodyAt k = b) ∧
      t.arb.gap = s.arb.gap ∧ t.arb.seqCtr = s.arb.seqCtr ∧ NoCompletion s t ∧ OnlyArbiter s t ∧ t.env = s.env

/-- R165: SEND, open, not ready: the same byte stays offered; no register changes but the strobes. -/
def Obligations.SendStallRow : Prop :=
  ∀ s : State, s.arb.st = .send → s.inp.txOpen = true → s.inp.txReady = false →
    s.arbRow = .ok .arbSendStall ∧ ∃ t, Runs .arbSendStall s t ∧ t.arb = { s.arb with outs := t.arb.outs } ∧
      t.offeredByte = s.offeredByte ∧ NoCompletion s t ∧ OnlyArbiter s t ∧ t.env = s.env

/-- R166: SEND, open, ready, before the checksum byte: the offered byte is transferred and folded into the checksum, and
the cursor advances without wrapping. -/
def Obligations.SendByteRow : Prop :=
  ∀ s : State, s.arb.st = .send → s.inp.txOpen = true → s.inp.txReady = true →
    s.arb.cur.toNat < s.arb.len.toNat + 4 →
    s.arbRow = .ok .arbSendByte ∧ ∃ t, Runs .arbSendByte s t ∧
      t.arb = { s.arb with csum := s.arb.csum ^^^ s.offeredByte, cur := s.arb.cur + 1, outs := t.arb.outs } ∧
      t.arb.cur.toNat = s.arb.cur.toNat + 1 ∧ NoCompletion s t ∧ OnlyArbiter s t ∧
      t.env.wire = s.env.wire ++ [s.offeredByte]

/-- R167: SEND, open, ready, at the checksum byte: it is transferred and the sequence counter advances modulo 256; then the
gap, or the completion at once where `P_GAP` is 0. -/
def Obligations.SendLastRow : Prop :=
  ∀ s : State, s.arb.st = .send → s.inp.txOpen = true → s.inp.txReady = true →
    s.arb.cur.toNat = s.arb.len.toNat + 4 → s.arb.gnt < s.arb.outs.length →
    s.arbRow = .ok .arbSendLast ∧ ∃ t, Runs .arbSendLast s t ∧ OnlyArbiter s t ∧
      t.env.wire = s.env.wire ++ [s.arb.csum] ∧ t.arb.seqCtr.toNat = (s.arb.seqCtr.toNat + 1) % 256 ∧
      (s.cfg.gap = 0 → Completes s.arb.gnt .ok s t ∧
        t.arb = { s.arb with seqCtr := s.arb.seqCtr + 1, st := .idle, outs := t.arb.outs }) ∧
      (s.cfg.gap ≠ 0 → NoCompletion s t ∧
        t.arb = { s.arb with seqCtr := s.arb.seqCtr + 1, st := .gap, gap := s.cfg.gap, outs := t.arb.outs })

/-- R168: SEND with the transport closed: no byte at this edge, the send completes CLOSED, the sequence counter stays, no
gap. -/
def Obligations.SendAbortRow : Prop :=
  ∀ s : State, s.arb.st = .send → s.inp.txOpen = false → s.arb.gnt < s.arb.outs.length →
    s.arbRow = .ok .arbSendAbort ∧ ∃ t, Runs .arbSendAbort s t ∧ Completes s.arb.gnt .closed s t ∧
      t.arb = { s.arb with st := .idle, outs := t.arb.outs } ∧ OnlyArbiter s t ∧ t.env = s.env

/-- R169: GAP with more than one cycle left: the counter goes down by one. -/
def Obligations.GapCountRow : Prop :=
  ∀ s : State, s.arb.st = .gap → s.arb.gap ≠ 1 →
    s.arbRow = .ok .arbGapCount ∧ ∃ t, Runs .arbGapCount s t ∧
      t.arb = { s.arb with gap := s.arb.gap - 1, outs := t.arb.outs } ∧ NoCompletion s t ∧ OnlyArbiter s t ∧
      t.env = s.env

/-- R170: GAP's last cycle: the granted port completes OK and the transport is released. GAP lasts exactly `P_GAP` edges:
from a gap counter of `P_GAP`, as the checksum byte's transfer leaves it, every earlier edge ends in GAP and the
`P_GAP`-th ends in IDLE with the completion. A gap counter of `n + 1` comes to its last cycle after `n` edges. -/
def Obligations.GapDoneRow : Prop :=
  ∀ s : State, s.arb.st = .gap → s.arb.gnt < s.arb.outs.length →
    (s.arb.gap = 1 → s.arbRow = .ok .arbGapDone ∧ ∃ t, Runs .arbGapDone s t ∧ Completes s.arb.gnt .ok s t ∧
      t.arb = { s.arb with st := .idle, outs := t.arb.outs } ∧ OnlyArbiter s t ∧ t.env = s.env) ∧
    (s.arb.gap = s.cfg.gap → s.cfg.gap ≠ 0 →
      (∀ k, k < s.cfg.gap.toNat → ∃ t, arbEdges k s = .next t ∧ t.arb.st = .gap) ∧
      ∃ t, arbEdges s.cfg.gap.toNat s = .next t ∧ t.arb.st = .idle ∧ Completes s.arb.gnt .ok s t ∧ t.env = s.env) ∧
    ∀ n, s.arb.gap.toNat = n + 1 → ∃ t, arbEdges n s = .next t ∧ t.arb.st = .gap ∧ t.arb.gap = 1 ∧
      t.arb.gnt = s.arb.gnt ∧ t.env = s.env

/-- R32, I7: the unreachable arbiter state selects ARB_BAD_STATE, which faults (R32 lets a model do so: the fault is the
model's choice). -/
def Obligations.BadArbiterStateFaults : Prop :=
  ∀ s : State, (s.arb.st = .bad → s.arbRow = .ok .arbBadState) ∧ exec .arbBadState s = .fault .badArbiterState

/-- R70, R88, R171: an edge without reset transfers at most one byte, the one offered, exactly when the port offers it and
the transport is ready and open; and while a port holds the grant no other port gets it or completes. -/
def Obligations.GrantIsExclusive : Prop :=
  ∀ s t : State, s.inp.rst = false → clockEdge s = .next t →
    (t.env.wire = s.env.wire ++
      if s.arb.st = .send ∧ s.inp.txReady = true ∧ s.inp.txOpen = true then [s.offeredByte] else []) ∧
    (s.arb.st = .send ∨ s.arb.st = .gap →
      t.arb.gnt = s.arb.gnt ∧ t.arb.len = s.arb.len ∧ t.arb.body = s.arb.body ∧
      ∀ (j : Nat) (o : PortOut), t.arb.outs[j]? = some o → o.done = true → j = s.arb.gnt)

/-- R38, R172: the sequence counter advances by one, modulo 256, at the edge that transfers a checksum byte, is cleared by
reset, and changes at no other edge. -/
def Obligations.SequenceCountsSends : Prop :=
  ∀ s t : State, clockEdge s = .next t →
    t.arb.seqCtr =
      if s.inp.rst = true then 0x00
      else if s.arb.st = .send ∧ s.inp.txOpen = true ∧ s.inp.txReady = true ∧ s.arb.cur.toNat = s.arb.len.toNat + 4
      then s.arb.seqCtr + 1 else s.arb.seqCtr

/-- R171, R173, R265: from a grant, with the transport open and ready, the bytes transferred are exactly the frame of the
captured body, byte `k` at edge `k + 1`; `P_GAP` edges after the last the granted port completes OK and the counter has
advanced. -/
def Obligations.GrantedFrameIsSentWhole : Prop :=
  ∀ s : State, s.cfg.legal = true → Arb.Inv s.cfg s.arb → s.arb.st = .send → s.arb.cur = 0 → s.inp.txOpen = true →
    s.inp.txReady = true →
    (∀ k, k ≤ s.arb.len.toNat + 5 → ∃ t, arbEdges k s = .next t ∧
      t.env.wire = s.env.wire ++ (encodeFrame s.capturedBody s.arb.seqCtr).take k) ∧
    ∃ t, arbEdges (s.arb.len.toNat + 5 + s.cfg.gap.toNat) s = .next t ∧
      t.env.wire = s.env.wire ++ encodeFrame s.capturedBody s.arb.seqCtr ∧ t.arb.st = .idle ∧
      t.arb.seqCtr = s.arb.seqCtr + 1 ∧
      (t.arb.outs[s.arb.gnt]? = some { done := true, status := .ok }) ∧
      ∀ (j : Nat) (o : PortOut), t.arb.outs[j]? = some o → o.done = true → j = s.arb.gnt

/-- R259, R262: with the transport open and never ready, the arbiter keeps the grant and the offered byte for as many edges
as one likes, and transfers nothing. -/
def Obligations.StallMayLastForever : Prop :=
  ∀ (n : Nat) (s : State), s.arb.st = .send → s.inp.txOpen = true → s.inp.txReady = false →
    ∃ t, arbEdges n s = .next t ∧ t.arb = { s.arb with outs := t.arb.outs } ∧ t.offeredByte = s.offeredByte ∧
      t.env = s.env

/-! ### Reset, the edge and the invariant (10_state.md, 60_exceptions.md, 70_reset_and_hazards.md) -/

/-- R47, R250: RESET gives every register its reset value, clears `tx_valid`, and leaves the environment and the parameters
as they were. -/
def Obligations.ResetRow : Prop :=
  ∀ s : State, ∃ t, Runs .reset s t ∧ t.dec.st = .s1 ∧ t.dec.dlen = 0 ∧ t.dec.cur = 0 ∧ t.ev.valid = false ∧
    t.ev.kind = .noEvent ∧ t.ev.id = 0 ∧ t.ev.seq = 0 ∧ t.ev.len = 0 ∧ t.eventBytes = [] ∧ t.arb.st = .idle ∧
    t.arb.gnt = 0 ∧ t.arb.len = 0 ∧ t.arb.cur = 0 ∧ t.arb.csum = 0 ∧ t.arb.gap = 0 ∧ t.arb.seqCtr = 0 ∧
    t.arb.outs.length = s.cfg.nreq ∧ (∀ o ∈ t.arb.outs, o.done = false ∧ o.status = .ok) ∧ t.tx.valid = false ∧
    t.cfg = s.cfg ∧ t.inp = s.inp ∧ t.env = s.env ∧ t.tick = s.tick

/-- R224, R250: at an edge with `rst = 1` only RESET applies. -/
def Obligations.ResetHasPriority : Prop :=
  ∀ s : State, s.inp.rst = true → clockEdge s = exec .reset s ∧
    ∃ t, clockEdge s = .next t ∧ t.env.wire = s.env.wire ∧ t.env.calls = s.env.calls ∧ t.tx.valid = false

/-- R47: the registers at the start of a run. -/
def Obligations.ResetStateValues : Prop :=
  State.reset.dec.st = .s1 ∧ State.reset.dec.dlen = 0 ∧ State.reset.dec.cur = 0 ∧ State.reset.ev.valid = false ∧
    State.reset.ev.kind = .noEvent ∧ State.reset.ev.id = 0 ∧ State.reset.ev.seq = 0 ∧ State.reset.ev.len = 0 ∧
    State.reset.arb.st = .idle ∧ State.reset.arb.gnt = 0 ∧ State.reset.arb.len = 0 ∧ State.reset.arb.cur = 0 ∧
    State.reset.arb.csum = 0 ∧ State.reset.arb.gap = 0 ∧ State.reset.arb.seqCtr = 0 ∧
    ∀ o ∈ State.reset.arb.outs, o.done = false ∧ o.status = .ok

/-- The invariant holds after reset. Its parts on the input ports and on the environment rest on values the model chose
(logs 2 and 4); the registers' parts on R47. -/
def Obligations.InvariantAtReset : Prop := State.Inv State.reset

/-- R22, R23, R24, R26, R28, R32: every step keeps the invariant: what the spec says holds always of the registers, and the
canonical form of the byte arrays. -/
def Obligations.InvariantKeptByStep : Prop :=
  ∀ s t : State, State.Inv s → step s = .next t → State.Inv t

/-- R122, R220: no condition is fatal: from a state of the invariant no step faults. -/
def Obligations.StepNeverFaults : Prop :=
  ∀ (s : State) (x : Fault), State.Inv s → step s ≠ .fault x

/-- R60: every row keeps the three byte arrays in canonical form. -/
def Obligations.RowsKeepArraysCanonical : Prop :=
  ∀ (i : Instr) (s t : State), State.arraysCanonical s → Runs i s t → State.arraysCanonical t

/-- R13, R225: a step is the environment's part of the cycle, then at the edge the transmit port's rows, the decoder's row
and the arbiter's row that the words decode to, or RESET; then the counter of the free values advances. In SEND the port's
rows are ENCODE and FRAME_BYTE, outside SEND it offers nothing (R41). The environment's part before the edge is the model's
choice (log 12), so are that a step runs what the words of its cycle select (log 13) and the counter (log 3). -/
def Obligations.StepRunsDecodedRows : Prop :=
  (∀ (s u v w x : State) (i j : Instr), hostPhase s = .next u → u.inp.rst = false → u.requestsLegal = true →
    driveTxPort u = .next v → v.decRow = .ok i → exec i v = .next w → w.arbRow = .ok j → exec j w = .next x →
    step s = .next x.advance) ∧
  (∀ u v w : State, u.arb.st = .send → exec .encode u = .next v → exec .frameByte v = .next w →
    driveTxPort u = .next w) ∧
  (∀ u : State, u.arb.st ≠ .send →
    ∃ w, driveTxPort u = .next w ∧ w.tx.valid = false ∧ w.tx.frame = [] ∧ OnlyTxPort u w) ∧
  ∀ s u x : State, hostPhase s = .next u → u.inp.rst = true → exec .reset u = .next x → step s = .next x.advance

/-- R16, R72: at an edge the decoder's next registers do not depend on the arbiter's registers, the transmit side or the
environment, nor the arbiter's on the decoder's registers and the receive port. -/
def Obligations.DecoderAndArbiterIndependent : Prop :=
  ∀ s s' t t' : State, clockEdge s = .next t → clockEdge s' = .next t' → s.inp.rst = s'.inp.rst → s.tick = s'.tick →
    (s.dec = s'.dec → s.ev = s'.ev → s.inp.rxValid = s'.inp.rxValid → s.inp.rxData = s'.inp.rxData →
      t.dec = t'.dec ∧ t.ev = t'.ev) ∧
    (s.cfg = s'.cfg → s.arb = s'.arb → s.inp.req = s'.inp.req → s.inp.txOpen = s'.inp.txOpen →
      s.inp.txReady = s'.inp.txReady → s.env.wire = s'.env.wire → t.arb = t'.arb ∧ t.env.wire = t'.env.wire)

/-! ### The environment agents (43_host_requesters.md) -/

/-- R92, R95, R96, R193, R204: a sent ID row hands its body to its port's requester and changes nothing else, no register
of the block among it. The waiting line, the append to it and the acting sender are the model's choice (logs 15 and 4). -/
def Obligations.SentIdRows : Prop :=
  ∀ (s : State) (l : Lane),
    (∀ left right : Wheel, s.env.lanes[1]? = some l → ∃ t, Runs (.idVelocity left right) s t ∧ OnlyHost s t ∧
      t.env = { s.env with lanes := s.env.lanes.set 1 { l with waiting := l.waiting ++ [⟨s.env.actor,
        [0x01, left.extractLsb' 8 8, left.extractLsb' 0 8, right.extractLsb' 8 8, right.extractLsb' 0 8,
          0x00, 0x00, 0x00, 0x00]⟩] } }) ∧
    (s.env.lanes[0]? = some l → ∃ t, Runs .idBatteryQuery s t ∧ OnlyHost s t ∧
      t.env = { s.env with lanes := s.env.lanes.set 0 { l with waiting := l.waiting ++ [⟨s.env.actor,
        [0x02, Config.bq1]⟩] } }) ∧
    ∀ payload : List Byte, s.env.lanes[2]? = some l → ∃ t, Runs (.idClearEncoder payload) s t ∧ OnlyHost s t ∧
      t.env = { s.env with lanes := s.env.lanes.set 2 { l with waiting := l.waiting ++ [⟨s.env.actor,
        0x06 :: payload⟩] } }

/-- R92, R195, R196, R97: a received ID row is the consumer's call with the event's fields; the timeout sentinel also asks
for the reset send on port 2. No register of the block changes. That the row is the consumer's call, and that the reset
send waits in a line in the GUI's name, is the model's choice (logs 15 and 4). -/
def Obligations.ReceivedIdRows : Prop :=
  ∀ s : State,
    (∃ t, Runs .idBatteryReport s t ∧ OnlyHost s t ∧
      t.env = { s.env with calls := s.env.calls ++ [.onDecoded s.ev.id s.ev.seq s.eventBytes] }) ∧
    (∃ t, Runs .idResetAck s t ∧ OnlyHost s t ∧
      t.env = { s.env with calls := s.env.calls ++ [.onDecoded s.ev.id s.ev.seq s.eventBytes] }) ∧
    ∀ l : Lane, s.env.lanes[2]? = some l → ∃ t, Runs .idTimeout s t ∧ OnlyHost s t ∧
      t.env = { s.env with
        calls := s.env.calls ++ [.onDecoded s.ev.id s.ev.seq s.eventBytes], actor := .gui,
        lanes := s.env.lanes.set 2 { l with waiting := l.waiting ++ [⟨.gui,
        Config.resetBody⟩] } }

/-- R195, R222, R30: the consumer reads a due event, in its cycle with `ev_valid = 1` or, when it left it, in a later one,
by exactly one call: for a CommandReady with the event's fields, for a ChecksumMismatch with the raw bytes. It may leave
it only in a cycle whose edge does not overwrite the registers, which hold it then; without a due event it makes no call.
That the duty to read is met at the latest in the cycle whose edge overwrites the registers, by an event or by reset,
is the model's choice (logs 12 and 26). -/
def Obligations.ConsumerTakesEvent : Prop :=
  ∀ s : State, Ev.Inv s.ev → (s.env.unread = true → s.ev.kind ≠ .noEvent) →
    (∀ late, s.ev.valid = false → s.env.unread = false → consume late s = .next s) ∧
    (s.ev.valid = true ∨ s.env.unread = true →
      (∀ late, late = false ∨ s.mustRead = true →
        (3 ≤ s.env.lanes.length → ∃ t, consume late s = .next t) ∧
        ∀ t, consume late s = .next t → OnlyHost s t ∧ t.env.unread = false ∧
          t.env.calls = s.env.calls ++
            if s.ev.kind = .ready then [.onDecoded s.ev.id s.ev.seq s.eventBytes]
            else [.onChecksumFailure s.eventBytes]) ∧
      (s.mustRead = false → consume true s = .next (s.setEnv { s.env with unread := true }))) ∧
    (s.mustRead = false → ∀ t, clockEdge s = .next t → NoEvent s t)

/-- R200: the wheel fields of the velocity body are the scaled values modulo 2^16, high byte first. -/
def Obligations.VelocityBodyBigEndian : Prop :=
  ∀ left right m : Int, ∃ lh ll rh rl : Byte,
    velBody left right m = [0x01, lh, ll, rh, rl, 0x00, 0x00, 0x00, 0x00] ∧
    ((lh.toNat * 256 + ll.toNat : Nat) : Int) = (left * m) % 65536 ∧
    ((rh.toNat * 256 + rl.toNat : Nat) : Int) = (right * m) % 65536

/-- R197, R198, R199, R205: a velocity set increments the generation token and starts one activity, which captures the new
value, the target and the selected multiplier. An activity that a later set has superseded, or that finds the channel
closed, terminates at its check without sending; the current one waits; the wait ends in one send with no further check.
From then on the activity does nothing until the done cycle of its port, in which it goes on to its next check. The
cycles of the wait, counted down by one and ending at 1, are the model's choice (log 12), so are the waiting line that
takes the send and the acting sender (logs 15 and 4). -/
def Obligations.VelocityLoop : Prop :=
  ∀ (s : State) (v : Velocity),
    (∀ left right : Int, ∃ t, guiMove (.setVelocity left right) s = .next t ∧ OnlyHost s t ∧
      t.env = { s.env with
        gen := s.env.gen + 1,
        vels := s.env.vels ++
          [{ gen := s.env.gen + 1, left := left, right := right, mult := s.env.mult, phase := .check }] }) ∧
    (v.phase = .check → (v.gen ≠ s.env.gen ∨ s.inp.txOpen = false) →
      ∃ t, stepVelocity v s = .next t ∧
        t = s.setEnv { s.env with vels := s.env.vels.filter fun u => u.gen != v.gen }) ∧
    (v.phase = .check → v.gen = s.env.gen → s.inp.txOpen = true →
      stepVelocity v s = .next (s.setPhase v.gen (.wait s.cfg.velInterval))) ∧
    (∀ n, v.phase = .wait (n + 2) → stepVelocity v s = .next (s.setPhase v.gen (.wait (n + 1)))) ∧
    (∀ l : Lane, v.phase = .wait 1 → s.env.lanes[1]? = some l →
      ∃ t, stepVelocity v s = .next t ∧ OnlyHost s t ∧
        t.env = { s.env with
          vels := (s.setPhase v.gen .sending).env.vels,
          actor := .velocity v.gen,
          lanes := s.env.lanes.set 1 { l with
            waiting := l.waiting ++ [⟨.velocity v.gen, velBody v.left v.right v.mult⟩] } }) ∧
    (v.phase = .sending → stepVelocity v s = .next s) ∧
    ∀ (l : Lane) (p : ReqPort) (o : PortOut), s.env.lanes[1]? = some l → l.owner = .velocity v.gen →
      s.inp.req[1]? = some p → p.valid = true → s.arb.outs[1]? = some o → o.done = true →
      ∃ t, returnPort 1 s = .next t ∧ OnlyInputs s t ∧
        t.env.vels = s.env.vels.map fun u =>
          if u.gen = v.gen ∧ u.phase = .sending then { u with phase := .check } else u

/-- R202, R203, R206: when `tx_open` rises, and in no other cycle, a battery poll starts unless one runs, and the velocity
set (0, 0) is made. The poll checks the channel, waits, and sends the battery query on port 0; closed at its check, it
terminates. Once it has sent it does nothing until the done cycle of its port, in which it goes on to its next check. The
cycles of the wait, counted down by one and ending at 1, are the model's choice (log 12), so are the waiting line that
takes the send and the acting sender (logs 15 and 4). -/
def Obligations.BatteryLoop : Prop :=
  ∀ s : State,
    (∀ wasOpen : Bool, OnlyHost s (s.openSequence wasOpen) ∧ (s.openSequence wasOpen).env =
      if s.inp.txOpen = true ∧ wasOpen = false then
        { s.env with
          batt := if s.env.batt = none then some .check else s.env.batt,
          gen := s.env.gen + 1,
          vels := s.env.vels ++
            [{ gen := s.env.gen + 1, left := 0, right := 0, mult := s.env.mult, phase := .check }] }
      else s.env) ∧
    (s.env.batt = some .check → s.inp.txOpen = false →
      stepBattery s = .next (s.setEnv { s.env with batt := none })) ∧
    (s.env.batt = some .check → s.inp.txOpen = true →
      stepBattery s = .next (s.setEnv { s.env with batt := some (.wait s.cfg.battInterval) })) ∧
    (∀ n, s.env.batt = some (.wait (n + 2)) →
      stepBattery s = .next (s.setEnv { s.env with batt := some (.wait (n + 1)) })) ∧
    (∀ l : Lane, s.env.batt = some (.wait 1) → s.env.lanes[0]? = some l →
      ∃ t, stepBattery s = .next t ∧ OnlyHost s t ∧
        t.env = { s.env with
          batt := some .sending,
          actor := .battery,
          lanes := s.env.lanes.set 0 { l with waiting := l.waiting ++ [⟨.battery, [0x02, Config.bq1]⟩] } }) ∧
    (s.env.batt = some .sending → stepBattery s = .next s) ∧
    ∀ (l : Lane) (p : ReqPort) (o : PortOut), s.env.batt = some .sending → s.env.lanes[0]? = some l →
      l.owner = .battery → s.inp.req[0]? = some p → p.valid = true → s.arb.outs[0]? = some o → o.done = true →
      ∃ t, returnPort 0 s = .next t ∧ OnlyInputs s t ∧ t.env.batt = some .check

/-- R193, R257: from the cycle a request is raised until its done cycle, the environment holds it unchanged. -/
def Obligations.RequestsAreHeld : Prop :=
  ∀ (s t : State) (i : Nat) (r : ReqPort), hostPhase s = .next t → s.inp.req[i]? = some r → r.valid = true →
    (∀ o, s.arb.outs[i]? = some o → o.done = false) → t.inp.req[i]? = some r

/-! ### Encodings (30_encoding.md) -/

/-- R89: the fields of the decoder word. -/
def Obligations.DecoderWordLayout : Prop :=
  ∀ (d : Dec) (b : Byte), (d.word b).extractLsb' 0 8 = b ∧ (d.word b).extractLsb' 8 2 = d.st.code ∧
    ((d.word b).getLsbD 10 = true ↔ d.st = .fill ∧ d.cur.toNat = d.dsize - 1)

/-- R90, R91, R95, R96: decoding an encoded well-formed row gives it back, with every operand. -/
def Obligations.DecodeOfEncode : Prop :=
  ∀ i : Instr, i.wellFormed = true → decode (encode i).1 (encode i).2 = .ok i

/-- R80, R90, R91: words written out from the spec's tables decode to their rows. -/
def Obligations.SpecWordsDecode : Prop :=
  decode (.dw true) [0x55, 0x0] = .ok .decSeek1Magic ∧ decode (.dw true) [0xAA, 0x0] = .ok (.decSeek1Discard 0xAA) ∧
    decode (.dw true) [0x09, 0x2] = .ok .decLenAccept9 ∧ decode (.dw false) [0x8B, 0x7] = .ok (.decFillCheckBad 0x8B) ∧
    decode (.dw true) [0x00, 0x4] = .error .impossibleWord ∧ decode .aw [0x0C] = .ok .arbGrant ∧
    decode .aw [0x39] = .ok .arbSendLast ∧ decode .aw [0x42] = .ok .arbGapDone ∧
    decode .wire [0x55, 0xAA, 0x02, 0x10, 0x02, 0x64, 0x8B] = .ok (.frameLen2 0x10 0x02 0x64 0x8B) ∧
    decode .wire [0x55, 0xAA, 0x07] = .error .badLength ∧ decode .receivedId [0xFF] = .ok .idTimeout
end

