-- ==== Sys2Proof/Laws/State.lean ====
section
/-! SUPPORT. Sys2Proof/Laws/State.lean: what each update of the state does to each register group. -/

namespace Sys2Proof.Machine

@[simp] theorem State.setDec_cfg (s : State) (d : Dec) : (s.setDec d).cfg = s.cfg := rfl
@[simp] theorem State.setDec_dec (s : State) (d : Dec) : (s.setDec d).dec = d := rfl
@[simp] theorem State.setDec_ev (s : State) (d : Dec) : (s.setDec d).ev = s.ev := rfl
@[simp] theorem State.setDec_arb (s : State) (d : Dec) : (s.setDec d).arb = s.arb := rfl
@[simp] theorem State.setDec_tx (s : State) (d : Dec) : (s.setDec d).tx = s.tx := rfl
@[simp] theorem State.setDec_inp (s : State) (d : Dec) : (s.setDec d).inp = s.inp := rfl
@[simp] theorem State.setDec_env (s : State) (d : Dec) : (s.setDec d).env = s.env := rfl
@[simp] theorem State.setDec_tick (s : State) (d : Dec) : (s.setDec d).tick = s.tick := rfl

@[simp] theorem State.setEv_cfg (s : State) (e : Ev) : (s.setEv e).cfg = s.cfg := rfl
@[simp] theorem State.setEv_dec (s : State) (e : Ev) : (s.setEv e).dec = s.dec := rfl
@[simp] theorem State.setEv_ev (s : State) (e : Ev) : (s.setEv e).ev = e := rfl
@[simp] theorem State.setEv_arb (s : State) (e : Ev) : (s.setEv e).arb = s.arb := rfl
@[simp] theorem State.setEv_tx (s : State) (e : Ev) : (s.setEv e).tx = s.tx := rfl
@[simp] theorem State.setEv_inp (s : State) (e : Ev) : (s.setEv e).inp = s.inp := rfl
@[simp] theorem State.setEv_env (s : State) (e : Ev) : (s.setEv e).env = s.env := rfl
@[simp] theorem State.setEv_tick (s : State) (e : Ev) : (s.setEv e).tick = s.tick := rfl

@[simp] theorem State.setArb_cfg (s : State) (a : Arb) : (s.setArb a).cfg = s.cfg := rfl
@[simp] theorem State.setArb_dec (s : State) (a : Arb) : (s.setArb a).dec = s.dec := rfl
@[simp] theorem State.setArb_ev (s : State) (a : Arb) : (s.setArb a).ev = s.ev := rfl
@[simp] theorem State.setArb_arb (s : State) (a : Arb) : (s.setArb a).arb = a := rfl
@[simp] theorem State.setArb_tx (s : State) (a : Arb) : (s.setArb a).tx = s.tx := rfl
@[simp] theorem State.setArb_inp (s : State) (a : Arb) : (s.setArb a).inp = s.inp := rfl
@[simp] theorem State.setArb_env (s : State) (a : Arb) : (s.setArb a).env = s.env := rfl
@[simp] theorem State.setArb_tick (s : State) (a : Arb) : (s.setArb a).tick = s.tick := rfl

@[simp] theorem State.setTx_cfg (s : State) (t : TxPort) : (s.setTx t).cfg = s.cfg := rfl
@[simp] theorem State.setTx_dec (s : State) (t : TxPort) : (s.setTx t).dec = s.dec := rfl
@[simp] theorem State.setTx_ev (s : State) (t : TxPort) : (s.setTx t).ev = s.ev := rfl
@[simp] theorem State.setTx_arb (s : State) (t : TxPort) : (s.setTx t).arb = s.arb := rfl
@[simp] theorem State.setTx_tx (s : State) (t : TxPort) : (s.setTx t).tx = t := rfl
@[simp] theorem State.setTx_inp (s : State) (t : TxPort) : (s.setTx t).inp = s.inp := rfl
@[simp] theorem State.setTx_env (s : State) (t : TxPort) : (s.setTx t).env = s.env := rfl
@[simp] theorem State.setTx_tick (s : State) (t : TxPort) : (s.setTx t).tick = s.tick := rfl

@[simp] theorem State.setInp_cfg (s : State) (i : Inp) : (s.setInp i).cfg = s.cfg := rfl
@[simp] theorem State.setInp_dec (s : State) (i : Inp) : (s.setInp i).dec = s.dec := rfl
@[simp] theorem State.setInp_ev (s : State) (i : Inp) : (s.setInp i).ev = s.ev := rfl
@[simp] theorem State.setInp_arb (s : State) (i : Inp) : (s.setInp i).arb = s.arb := rfl
@[simp] theorem State.setInp_tx (s : State) (i : Inp) : (s.setInp i).tx = s.tx := rfl
@[simp] theorem State.setInp_inp (s : State) (i : Inp) : (s.setInp i).inp = i := rfl
@[simp] theorem State.setInp_env (s : State) (i : Inp) : (s.setInp i).env = s.env := rfl
@[simp] theorem State.setInp_tick (s : State) (i : Inp) : (s.setInp i).tick = s.tick := rfl

@[simp] theorem State.setEnv_cfg (s : State) (e : Env) : (s.setEnv e).cfg = s.cfg := rfl
@[simp] theorem State.setEnv_dec (s : State) (e : Env) : (s.setEnv e).dec = s.dec := rfl
@[simp] theorem State.setEnv_ev (s : State) (e : Env) : (s.setEnv e).ev = s.ev := rfl
@[simp] theorem State.setEnv_arb (s : State) (e : Env) : (s.setEnv e).arb = s.arb := rfl
@[simp] theorem State.setEnv_tx (s : State) (e : Env) : (s.setEnv e).tx = s.tx := rfl
@[simp] theorem State.setEnv_inp (s : State) (e : Env) : (s.setEnv e).inp = s.inp := rfl
@[simp] theorem State.setEnv_env (s : State) (e : Env) : (s.setEnv e).env = e := rfl
@[simp] theorem State.setEnv_tick (s : State) (e : Env) : (s.setEnv e).tick = s.tick := rfl

@[simp] theorem State.advance_cfg (s : State) : s.advance.cfg = s.cfg := rfl
@[simp] theorem State.advance_dec (s : State) : s.advance.dec = s.dec := rfl
@[simp] theorem State.advance_ev (s : State) : s.advance.ev = s.ev := rfl
@[simp] theorem State.advance_arb (s : State) : s.advance.arb = s.arb := rfl
@[simp] theorem State.advance_tx (s : State) : s.advance.tx = s.tx := rfl
@[simp] theorem State.advance_inp (s : State) : s.advance.inp = s.inp := rfl
@[simp] theorem State.advance_env (s : State) : s.advance.env = s.env := rfl
@[simp] theorem State.advance_tick (s : State) : s.advance.tick = s.tick + 1 := rfl

@[simp] theorem State.goto_cfg (s : State) (st : DecSt) : (s.goto st).cfg = s.cfg := rfl
@[simp] theorem State.goto_dec (s : State) (st : DecSt) : (s.goto st).dec = { s.dec with st := st } := rfl
@[simp] theorem State.goto_ev (s : State) (st : DecSt) : (s.goto st).ev = s.ev := rfl
@[simp] theorem State.goto_arb (s : State) (st : DecSt) : (s.goto st).arb = s.arb := rfl
@[simp] theorem State.goto_tx (s : State) (st : DecSt) : (s.goto st).tx = s.tx := rfl
@[simp] theorem State.goto_inp (s : State) (st : DecSt) : (s.goto st).inp = s.inp := rfl
@[simp] theorem State.goto_env (s : State) (st : DecSt) : (s.goto st).env = s.env := rfl
@[simp] theorem State.goto_tick (s : State) (st : DecSt) : (s.goto st).tick = s.tick := rfl

@[simp] theorem State.resync_cfg (s : State) : (s.resync).cfg = s.cfg := rfl
@[simp] theorem State.resync_dec (s : State) : (s.resync).dec = { s.dec with st := .s1 } := rfl
@[simp] theorem State.resync_ev (s : State) : (s.resync).ev = s.ev := rfl
@[simp] theorem State.resync_arb (s : State) : (s.resync).arb = s.arb := rfl
@[simp] theorem State.resync_tx (s : State) : (s.resync).tx = s.tx := rfl
@[simp] theorem State.resync_inp (s : State) : (s.resync).inp = s.inp := rfl
@[simp] theorem State.resync_env (s : State) : (s.resync).env = s.env := rfl
@[simp] theorem State.resync_tick (s : State) : (s.resync).tick = s.tick := rfl

@[simp] theorem State.bufWrite_cfg (s : State) (k : Nat) (v : Byte) : (s.bufWrite k v).cfg = s.cfg := rfl
@[simp] theorem State.bufWrite_dec (s : State) (k : Nat) (v : Byte) : (s.bufWrite k v).dec = { s.dec with buf := Memory.put s.dec.buf k v } := rfl
@[simp] theorem State.bufWrite_ev (s : State) (k : Nat) (v : Byte) : (s.bufWrite k v).ev = s.ev := rfl
@[simp] theorem State.bufWrite_arb (s : State) (k : Nat) (v : Byte) : (s.bufWrite k v).arb = s.arb := rfl
@[simp] theorem State.bufWrite_tx (s : State) (k : Nat) (v : Byte) : (s.bufWrite k v).tx = s.tx := rfl
@[simp] theorem State.bufWrite_inp (s : State) (k : Nat) (v : Byte) : (s.bufWrite k v).inp = s.inp := rfl
@[simp] theorem State.bufWrite_env (s : State) (k : Nat) (v : Byte) : (s.bufWrite k v).env = s.env := rfl
@[simp] theorem State.bufWrite_tick (s : State) (k : Nat) (v : Byte) : (s.bufWrite k v).tick = s.tick := rfl

@[simp] theorem State.acceptLen_cfg (s : State) (len : Byte) : (s.acceptLen len).cfg = s.cfg := rfl
@[simp] theorem State.acceptLen_dec (s : State) (len : Byte) : (s.acceptLen len).dec = 
      { st := .fill, dlen := len, cur := 3,
        buf := Memory.put (Memory.put (Memory.put s.dec.buf 0 Config.magic0) 1 Config.magic1) 2 len } := rfl
@[simp] theorem State.acceptLen_ev (s : State) (len : Byte) : (s.acceptLen len).ev = s.ev := rfl
@[simp] theorem State.acceptLen_arb (s : State) (len : Byte) : (s.acceptLen len).arb = s.arb := rfl
@[simp] theorem State.acceptLen_tx (s : State) (len : Byte) : (s.acceptLen len).tx = s.tx := rfl
@[simp] theorem State.acceptLen_inp (s : State) (len : Byte) : (s.acceptLen len).inp = s.inp := rfl
@[simp] theorem State.acceptLen_env (s : State) (len : Byte) : (s.acceptLen len).env = s.env := rfl
@[simp] theorem State.acceptLen_tick (s : State) (len : Byte) : (s.acceptLen len).tick = s.tick := rfl

@[simp] theorem State.noEmit_cfg (s : State) : (s.noEmit).cfg = s.cfg := rfl
@[simp] theorem State.noEmit_dec (s : State) : (s.noEmit).dec = s.dec := rfl
@[simp] theorem State.noEmit_ev (s : State) : (s.noEmit).ev = { s.ev with valid := false } := rfl
@[simp] theorem State.noEmit_arb (s : State) : (s.noEmit).arb = s.arb := rfl
@[simp] theorem State.noEmit_tx (s : State) : (s.noEmit).tx = s.tx := rfl
@[simp] theorem State.noEmit_inp (s : State) : (s.noEmit).inp = s.inp := rfl
@[simp] theorem State.noEmit_env (s : State) : (s.noEmit).env = s.env := rfl
@[simp] theorem State.noEmit_tick (s : State) : (s.noEmit).tick = s.tick := rfl

@[simp] theorem State.emit_cfg (s : State) (kind : EvKind) (id seq : Byte) (bytes : List Byte) : (s.emit kind id seq bytes).cfg = s.cfg := rfl
@[simp] theorem State.emit_dec (s : State) (kind : EvKind) (id seq : Byte) (bytes : List Byte) : (s.emit kind id seq bytes).dec = s.dec := rfl
@[simp] theorem State.emit_ev (s : State) (kind : EvKind) (id seq : Byte) (bytes : List Byte) : (s.emit kind id seq bytes).ev = 
      { valid := true, kind := kind, id := id, seq := seq, len := BitVec.ofNat 4 bytes.length,
        bytes := Memory.fromList 0 bytes } := rfl
@[simp] theorem State.emit_arb (s : State) (kind : EvKind) (id seq : Byte) (bytes : List Byte) : (s.emit kind id seq bytes).arb = s.arb := rfl
@[simp] theorem State.emit_tx (s : State) (kind : EvKind) (id seq : Byte) (bytes : List Byte) : (s.emit kind id seq bytes).tx = s.tx := rfl
@[simp] theorem State.emit_inp (s : State) (kind : EvKind) (id seq : Byte) (bytes : List Byte) : (s.emit kind id seq bytes).inp = s.inp := rfl
@[simp] theorem State.emit_env (s : State) (kind : EvKind) (id seq : Byte) (bytes : List Byte) : (s.emit kind id seq bytes).env = s.env := rfl
@[simp] theorem State.emit_tick (s : State) (kind : EvKind) (id seq : Byte) (bytes : List Byte) : (s.emit kind id seq bytes).tick = s.tick := rfl

@[simp] theorem State.noDone_cfg (s : State) : (s.noDone).cfg = s.cfg := rfl
@[simp] theorem State.noDone_dec (s : State) : (s.noDone).dec = s.dec := rfl
@[simp] theorem State.noDone_ev (s : State) : (s.noDone).ev = s.ev := rfl
@[simp] theorem State.noDone_arb (s : State) : (s.noDone).arb = s.arb.clearDone := rfl
@[simp] theorem State.noDone_tx (s : State) : (s.noDone).tx = s.tx := rfl
@[simp] theorem State.noDone_inp (s : State) : (s.noDone).inp = s.inp := rfl
@[simp] theorem State.noDone_env (s : State) : (s.noDone).env = s.env := rfl
@[simp] theorem State.noDone_tick (s : State) : (s.noDone).tick = s.tick := rfl

@[simp] theorem State.transfer_cfg (s : State) (b : Byte) : (s.transfer b).cfg = s.cfg := rfl
@[simp] theorem State.transfer_dec (s : State) (b : Byte) : (s.transfer b).dec = s.dec := rfl
@[simp] theorem State.transfer_ev (s : State) (b : Byte) : (s.transfer b).ev = s.ev := rfl
@[simp] theorem State.transfer_arb (s : State) (b : Byte) : (s.transfer b).arb = s.arb := rfl
@[simp] theorem State.transfer_tx (s : State) (b : Byte) : (s.transfer b).tx = s.tx := rfl
@[simp] theorem State.transfer_inp (s : State) (b : Byte) : (s.transfer b).inp = s.inp := rfl
@[simp] theorem State.transfer_env (s : State) (b : Byte) : (s.transfer b).env = { s.env with wire := s.env.wire ++ [b] } := rfl
@[simp] theorem State.transfer_tick (s : State) (b : Byte) : (s.transfer b).tick = s.tick := rfl

@[simp] theorem State.call_cfg (s : State) (c : HostCall) : (s.call c).cfg = s.cfg := rfl
@[simp] theorem State.call_dec (s : State) (c : HostCall) : (s.call c).dec = s.dec := rfl
@[simp] theorem State.call_ev (s : State) (c : HostCall) : (s.call c).ev = s.ev := rfl
@[simp] theorem State.call_arb (s : State) (c : HostCall) : (s.call c).arb = s.arb := rfl
@[simp] theorem State.call_tx (s : State) (c : HostCall) : (s.call c).tx = s.tx := rfl
@[simp] theorem State.call_inp (s : State) (c : HostCall) : (s.call c).inp = s.inp := rfl
@[simp] theorem State.call_env (s : State) (c : HostCall) : (s.call c).env = { s.env with calls := s.env.calls ++ [c] } := rfl
@[simp] theorem State.call_tick (s : State) (c : HostCall) : (s.call c).tick = s.tick := rfl

@[simp] theorem State.actAs_cfg (s : State) (who : Sender) : (s.actAs who).cfg = s.cfg := rfl
@[simp] theorem State.actAs_dec (s : State) (who : Sender) : (s.actAs who).dec = s.dec := rfl
@[simp] theorem State.actAs_ev (s : State) (who : Sender) : (s.actAs who).ev = s.ev := rfl
@[simp] theorem State.actAs_arb (s : State) (who : Sender) : (s.actAs who).arb = s.arb := rfl
@[simp] theorem State.actAs_tx (s : State) (who : Sender) : (s.actAs who).tx = s.tx := rfl
@[simp] theorem State.actAs_inp (s : State) (who : Sender) : (s.actAs who).inp = s.inp := rfl
@[simp] theorem State.actAs_env (s : State) (who : Sender) : (s.actAs who).env = { s.env with actor := who } := rfl
@[simp] theorem State.actAs_tick (s : State) (who : Sender) : (s.actAs who).tick = s.tick := rfl
@[simp] theorem State.setUnread_cfg (s : State) (b : Bool) : (s.setUnread b).cfg = s.cfg := rfl
@[simp] theorem State.setUnread_dec (s : State) (b : Bool) : (s.setUnread b).dec = s.dec := rfl
@[simp] theorem State.setUnread_ev (s : State) (b : Bool) : (s.setUnread b).ev = s.ev := rfl
@[simp] theorem State.setUnread_arb (s : State) (b : Bool) : (s.setUnread b).arb = s.arb := rfl
@[simp] theorem State.setUnread_tx (s : State) (b : Bool) : (s.setUnread b).tx = s.tx := rfl
@[simp] theorem State.setUnread_inp (s : State) (b : Bool) : (s.setUnread b).inp = s.inp := rfl
@[simp] theorem State.setUnread_env (s : State) (b : Bool) : (s.setUnread b).env = { s.env with unread := b } := rfl
@[simp] theorem State.setUnread_tick (s : State) (b : Bool) : (s.setUnread b).tick = s.tick := rfl

/-- A control transfer leaves the buffer as it was (R12). -/
theorem State.goto_bufAt (s : State) (st : DecSt) (k : Nat) : (s.goto st).bufAt k = s.bufAt k := rfl

end Sys2Proof.Machine
end

