-- ==== Sys2Proof/Laws/Ops.lean ====
section
/-! SUPPORT. Sys2Proof/Laws/Ops.lean: one specification lemma for each shared operation: sequencing, the arbitration draw,
the requesters' queues, completions, the decoder's writes. -/

namespace Sys2Proof.Machine

@[simp] theorem andThen_next (s : State) (f : State → Result) : andThen (.next s) f = f s := rfl
@[simp] theorem andThen_fault (x : Fault) (f : State → Result) : andThen (.fault x) f = .fault x := rfl
@[simp] theorem andThen_refused (x : Refusal) (f : State → Result) : andThen (.refused x) f = .refused x := rfl

/-- A sequence answers a next state exactly through one of its first part. -/
theorem andThen_eq_next {r : Result} {f : State → Result} {t : State} :
    andThen r f = .next t ↔ ∃ s, r = .next s ∧ f s = .next t := by
  cases r <;> simp

/-- A sequence faults in its first or in its second part. -/
theorem andThen_eq_fault {r : Result} {f : State → Result} {x : Fault} :
    andThen r f = .fault x ↔ r = .fault x ∨ ∃ s, r = .next s ∧ f s = .fault x := by
  cases r <;> simp

@[simp] theorem forAll_nil {α : Type} (f : α → State → Result) (s : State) : forAll f [] s = .next s := rfl
@[simp] theorem forAll_cons {α : Type} (f : α → State → Result) (x : α) (xs : List α) (s : State) :
    forAll f (x :: xs) s = andThen (f x s) (forAll f xs) := rfl

/-- What every move of a list keeps, the list keeps. -/
theorem forAll_keeps {α : Type} (P : State → State → Prop) (f : α → State → Result) (xs : List α)
    (refl : ∀ s, P s s) (trans : ∀ s t u, P s t → P t u → P s u)
    (one : ∀ x ∈ xs, ∀ s t, f x s = .next t → P s t) (s t : State) (h : forAll f xs s = .next t) : P s t := by
  induction xs generalizing s with
  | nil => cases h; exact refl _
  | cons x xs ih =>
    obtain ⟨u, hu, ht⟩ := andThen_eq_next.mp h
    exact trans s u t (one x (by simp) s u hu)
      (ih (fun y hy => one y (List.mem_cons_of_mem _ hy)) u ht)

/-- What every move of a list keeps true, the list keeps true. -/
theorem forAll_invariant {α : Type} (P : State → Prop) (f : α → State → Result) (xs : List α)
    (one : ∀ x ∈ xs, ∀ s t, P s → f x s = .next t → P t) (s t : State) (hs : P s)
    (h : forAll f xs s = .next t) : P t := by
  induction xs generalizing s with
  | nil => cases h; exact hs
  | cons x xs ih =>
    obtain ⟨u, hu, ht⟩ := andThen_eq_next.mp h
    exact ih (fun y hy => one y (List.mem_cons_of_mem _ hy)) u (one x (by simp) s u hs hu) ht

/-- A list of moves faults only if one of them does, in a state the moves before it lead to. -/
theorem forAll_no_fault {α : Type} (P : State → Prop) (f : α → State → Result) (xs : List α)
    (one : ∀ x ∈ xs, ∀ s t, P s → f x s = .next t → P t) (safe : ∀ x ∈ xs, ∀ s y, P s → f x s ≠ .fault y)
    (s : State) (hs : P s) (y : Fault) : forAll f xs s ≠ .fault y := by
  induction xs generalizing s with
  | nil => simp
  | cons x xs ih =>
    intro h
    rcases andThen_eq_fault.mp h with h | ⟨u, hu, ht⟩
    · exact safe x (by simp) s y hs h
    · exact ih (fun z hz => one z (List.mem_cons_of_mem _ hz)) (fun z hz => safe z (List.mem_cons_of_mem _ hz)) u
        (one x (by simp) s u hs hu) ht

/-- The draw picks a member. -/
theorem pickPort_mem (d : Nat) (ports : List Nat) (g : Nat) (h : pickPort d ports = some g) : g ∈ ports := by
  match ports with
  | [] => simp [pickPort] at h
  | [a] => simp_all [pickPort]
  | a :: b :: rest => exact List.mem_of_getElem? h

/-- Of a non-empty set of ports the draw picks one. -/
theorem pickPort_isSome (d : Nat) (ports : List Nat) (h : ports ≠ []) : ∃ g, pickPort d ports = some g := by
  match ports with
  | [] => simp at h
  | [a] => exact ⟨a, rfl⟩
  | a :: b :: rest =>
    have hl : d % (a :: b :: rest).length < (a :: b :: rest).length := Nat.mod_lt _ (by simp)
    exact ⟨_, List.getElem?_eq_getElem hl⟩

/-- `P_ARB(PENDING)` is a member of PENDING, and exists when PENDING is not empty (R163). -/
theorem State.arbChoice_mem (s : State) (g : Nat) (h : s.arbChoice = some g) : g ∈ s.pending :=
  pickPort_mem _ _ _ h

theorem State.arbChoice_exists (s : State) (h : s.pending ≠ []) : ∃ g ∈ s.pending, s.arbChoice = some g := by
  obtain ⟨g, hg⟩ := pickPort_isSome (Config.arbDraw s.tick s.pending) s.pending h
  exact ⟨g, pickPort_mem _ _ _ hg, hg⟩

theorem State.arbChoice_none (s : State) : s.arbChoice = none ↔ s.pending = [] := by
  constructor
  · intro h
    by_contra hne
    obtain ⟨g, _, hg⟩ := s.arbChoice_exists hne
    rw [h] at hg; cases hg
  · intro h; simp [State.arbChoice, h, pickPort]

/-- A send enqueued on a port the build has. -/
theorem State.enqueue_next (s : State) (p : Nat) (body : List Byte) (l : Lane) (h : s.env.lanes[p]? = some l) :
    s.enqueue p body = .next (s.setEnv { s.env with
      lanes := s.env.lanes.set p { l with waiting := l.waiting ++ [{ owner := s.env.actor, body := body }] } }) := by
  simp [State.enqueue, h]

/-- An enqueue that answers a next state touches the lanes only, and one of them. -/
theorem State.enqueue_eq_next (s t : State) (p : Nat) (body : List Byte) (h : s.enqueue p body = .next t) :
    ∃ l, s.env.lanes[p]? = some l ∧ t = s.setEnv { s.env with
      lanes := s.env.lanes.set p { l with waiting := l.waiting ++ [{ owner := s.env.actor, body := body }] } } := by
  unfold State.enqueue at h
  split at h
  · cases h
  · next l hl => cases h; exact ⟨l, hl, rfl⟩

theorem State.enqueue_ne_fault (s : State) (p : Nat) (body : List Byte) (x : Fault) : s.enqueue p body ≠ .fault x := by
  unfold State.enqueue
  split <;> simp

/-- A completion on a port the build has (R43). -/
theorem State.completeSend_next (s : State) (i : Nat) (c : SendStatus) (h : i < s.arb.outs.length) :
    s.completeSend i c = .next (s.setArb { s.arb.complete i c with st := .idle }) := by
  simp [State.completeSend, State.done, h, State.setArb]

theorem State.completeSend_eq_next (s t : State) (i : Nat) (c : SendStatus) (h : s.completeSend i c = .next t) :
    i < s.arb.outs.length ∧ t = s.setArb { s.arb.complete i c with st := .idle } := by
  by_cases hi : i < s.arb.outs.length
  · rw [State.completeSend_next s i c hi] at h; cases h; exact ⟨hi, rfl⟩
  · simp [State.completeSend, State.done, hi] at h

@[simp] theorem Arb.clearDone_st (a : Arb) : a.clearDone.st = a.st := rfl
@[simp] theorem Arb.clearDone_gnt (a : Arb) : a.clearDone.gnt = a.gnt := rfl
@[simp] theorem Arb.clearDone_len (a : Arb) : a.clearDone.len = a.len := rfl
@[simp] theorem Arb.clearDone_body (a : Arb) : a.clearDone.body = a.body := rfl
@[simp] theorem Arb.clearDone_cur (a : Arb) : a.clearDone.cur = a.cur := rfl
@[simp] theorem Arb.clearDone_csum (a : Arb) : a.clearDone.csum = a.csum := rfl
@[simp] theorem Arb.clearDone_gap (a : Arb) : a.clearDone.gap = a.gap := rfl
@[simp] theorem Arb.clearDone_seqCtr (a : Arb) : a.clearDone.seqCtr = a.seqCtr := rfl
@[simp] theorem Arb.complete_st (a : Arb) (i : Nat) (c : SendStatus) : (a.complete i c).st = a.st := rfl
@[simp] theorem Arb.complete_gnt (a : Arb) (i : Nat) (c : SendStatus) : (a.complete i c).gnt = a.gnt := rfl
@[simp] theorem Arb.complete_len (a : Arb) (i : Nat) (c : SendStatus) : (a.complete i c).len = a.len := rfl
@[simp] theorem Arb.complete_body (a : Arb) (i : Nat) (c : SendStatus) : (a.complete i c).body = a.body := rfl
@[simp] theorem Arb.complete_cur (a : Arb) (i : Nat) (c : SendStatus) : (a.complete i c).cur = a.cur := rfl
@[simp] theorem Arb.complete_csum (a : Arb) (i : Nat) (c : SendStatus) : (a.complete i c).csum = a.csum := rfl
@[simp] theorem Arb.complete_gap (a : Arb) (i : Nat) (c : SendStatus) : (a.complete i c).gap = a.gap := rfl
@[simp] theorem Arb.complete_seqCtr (a : Arb) (i : Nat) (c : SendStatus) : (a.complete i c).seqCtr = a.seqCtr := rfl
@[simp] theorem Arb.clearDone_outs_length (a : Arb) : a.clearDone.outs.length = a.outs.length := by
  simp [Arb.clearDone]
@[simp] theorem Arb.complete_outs_length (a : Arb) (i : Nat) (c : SendStatus) :
    (a.complete i c).outs.length = a.outs.length := by
  simp [Arb.complete]

/-- After an edge without a completion no strobe is high (R43). -/
theorem Arb.clearDone_none_done (a : Arb) (o : PortOut) (h : o ∈ a.clearDone.outs) : o.done = false := by
  simp only [Arb.clearDone, List.mem_map] at h
  obtain ⟨p, _, rfl⟩ := h
  rfl

/-- After a completion exactly the completed port's strobe is high, and only its status changed (R40, R43). -/
theorem Arb.complete_outs (a : Arb) (i j : Nat) (c : SendStatus) :
    (a.complete i c).outs[j]? =
      (a.outs[j]?).map fun o => if j = i then { done := true, status := c } else { o with done := false } := by
  simp only [Arb.complete, Arb.clearDone, List.getElem?_set, List.getElem?_map]
  by_cases h : i = j
  · subst h
    by_cases hl : i < a.outs.length
    · simp [hl]
    · simp [hl]
  · simp only [if_neg h]
    have : j ≠ i := fun e => h e.symm
    simp [this]

theorem Arb.complete_one_done (a : Arb) (i : Nat) (c : SendStatus) :
    ((a.complete i c).outs.filter fun o => o.done).length ≤ 1 := by
  have key : ∀ (l : List PortOut) (k : Nat), (∀ o ∈ l, o.done = false) →
      ((l.set k { done := true, status := c }).filter fun o => o.done).length ≤ 1 := by
    intro l
    induction l with
    | nil => simp
    | cons o rest ih =>
      intro k hl
      have hr : rest.filter (fun o => o.done) = [] := by
        simp only [List.filter_eq_nil_iff]
        intro x hx; simp [hl x (List.mem_cons_of_mem _ hx)]
      cases k with
      | zero => simp [hr]
      | succ k =>
        have ho := hl o (by simp)
        simpa [ho] using ih k (fun x hx => hl x (List.mem_cons_of_mem _ hx))
  exact key _ _ (fun o ho => Arb.clearDone_none_done a o ho)

/-- R66: at every edge but that of an accepted LEN byte (R115, R116) at most one entry of the buffer is written, with the
byte received. -/
theorem feed_writes_one (b : Byte) (s t : State) (h : feed b s = .next t)
    (hr : ¬(s.dec.st = .rl ∧ (b = Config.len2 ∨ b = Config.len9))) :
    t.dec.buf = s.dec.buf ∨ ∃ k, t.dec.buf = Memory.put s.dec.buf k b := by
  unfold feed at h
  split at h
  · split at h <;> cases h <;> exact .inl rfl
  · split at h <;> cases h <;> exact .inl rfl
  · next hs =>
    split at h
    · next hb => exact absurd ⟨hs, .inl (beq_iff_eq.mp hb)⟩ hr
    · split at h
      · next hb => exact absurd ⟨hs, .inr (beq_iff_eq.mp hb)⟩ hr
      · cases h; exact .inl rfl
  · split at h
    · split at h
      · next hk =>
        unfold execDecFillCheckOk at h
        simp only [hk, if_true] at h
        split at h <;> cases h
        exact .inr ⟨_, rfl⟩
      · next hk =>
        unfold execDecFillCheckBad at h
        simp only [hk] at h
        split at h <;> cases h
        exact .inr ⟨_, rfl⟩
    · unfold execDecFillStore at h
      split at h <;> cases h
      exact .inr ⟨_, rfl⟩

end Sys2Proof.Machine
end

