-- ==== Sys2Proof/Laws/Agents.lean ====
section
/-! SUPPORT. Sys2Proof/Laws/Agents.lean: what each agent of the environment can do in a cycle: it drives its own state and the
input ports, never a register of the block, and it faults only on the reserved event kind. -/

namespace Sys2Proof.Machine

theorem OnlyInputs.refl (s : State) : OnlyInputs s s := ⟨rfl, rfl, rfl, rfl, rfl, rfl⟩

theorem OnlyInputs.trans {s t u : State} (h : OnlyInputs s t) (k : OnlyInputs t u) : OnlyInputs s u := by
  obtain ⟨a, b, c, d, e, f⟩ := h
  obtain ⟨a', b', c', d', e', f'⟩ := k
  exact ⟨a'.trans a, b'.trans b, c'.trans c, d'.trans d, e'.trans e, f'.trans f⟩

theorem OnlyHost.onlyInputs {s t : State} (h : OnlyHost s t) : OnlyInputs s t :=
  ⟨h.1, h.2.1, h.2.2.1, h.2.2.2.1, h.2.2.2.2.1, h.2.2.2.2.2.2⟩

/-- An enqueue touches the environment only. -/
theorem State.enqueue_onlyHost (s t : State) (p : Nat) (body : List Byte) (h : s.enqueue p body = .next t) :
    OnlyHost s t := by
  obtain ⟨l, _, rfl⟩ := State.enqueue_eq_next s t p body h
  exact ⟨rfl, rfl, rfl, rfl, rfl, rfl, rfl⟩

/-- The received ID rows are the three of R196's table. -/
theorem State.receivedRow_cases (s : State) (i : Instr) (h : s.receivedRow = some i) :
    i = .idBatteryReport ∨ i = .idResetAck ∨ i = .idTimeout := by
  unfold State.receivedRow decodeReceived at h
  split_ifs at h <;> simp_all

theorem execIdTimeout_onlyHost (s t : State) (h : execIdTimeout s = .next t) : OnlyHost s t :=
  State.enqueue_onlyHost ((s.call s.decodedCall).actAs .gui) t _ _ h

/-- What taking an event can do: nothing (no event yet), the meaning of a received ID row, or a call. -/
theorem takeEvent_onlyInputs (s t : State) (h : takeEvent s = .next t) : OnlyInputs s t := by
  unfold takeEvent at h
  split at h
  · cases h; exact OnlyInputs.refl _
  · split at h
    · next i hi =>
      rcases State.receivedRow_cases s i hi with rfl | rfl | rfl
      · cases h; exact ⟨rfl, rfl, rfl, rfl, rfl, rfl⟩
      · cases h; exact ⟨rfl, rfl, rfl, rfl, rfl, rfl⟩
      · exact (execIdTimeout_onlyHost s t h).onlyInputs
    · cases h; exact ⟨rfl, rfl, rfl, rfl, rfl, rfl⟩
  · cases h; exact ⟨rfl, rfl, rfl, rfl, rfl, rfl⟩
  · cases h

/-- The consumer's three ways through a cycle: no event is due, it leaves a due one for later, or it takes it. -/
theorem consume_cases (late : Bool) (s : State) :
    (s.eventDue = false ∧ consume late s = .next s) ∨
    (s.eventDue = true ∧ late = true ∧ s.mustRead = false ∧ consume late s = .next (s.setUnread true)) ∨
    (s.eventDue = true ∧ (late = false ∨ s.mustRead = true) ∧ consume late s = takeEvent (s.setUnread false)) := by
  unfold consume
  cases s.eventDue <;> cases late <;> cases s.mustRead <;> simp

theorem consume_onlyInputs (late : Bool) (s t : State) (h : consume late s = .next t) : OnlyInputs s t := by
  obtain ⟨-, e⟩ | ⟨-, -, -, e⟩ | ⟨-, -, e⟩ := consume_cases late s <;> rw [e] at h
  · cases h; exact OnlyInputs.refl _
  · cases h; exact ⟨rfl, rfl, rfl, rfl, rfl, rfl⟩
  · exact takeEvent_onlyInputs (s.setUnread false) t h

theorem returnPort_onlyInputs (i : Nat) (s t : State) (h : returnPort i s = .next t) : OnlyInputs s t := by
  unfold returnPort at h
  split at h
  · split at h
    · cases h; exact ⟨rfl, rfl, rfl, rfl, rfl, rfl⟩
    · cases h; exact OnlyInputs.refl _
  · cases h; exact OnlyInputs.refl _

theorem raisePort_onlyInputs (hold : List Nat) (i : Nat) (s t : State) (h : raisePort hold i s = .next t) :
    OnlyInputs s t := by
  unfold raisePort at h
  split at h
  · cases h; exact OnlyInputs.refl _
  split at h
  · split at h
    · cases h; exact OnlyInputs.refl _
    · split at h
      · cases h; exact OnlyInputs.refl _
      · split at h
        · cases h; exact ⟨rfl, rfl, rfl, rfl, rfl, rfl⟩
        · cases h
  · cases h; exact OnlyInputs.refl _

theorem State.openSequence_onlyInputs (w : Bool) (s : State) : OnlyInputs s (s.openSequence w) := by
  unfold State.openSequence State.startBattery
  split_ifs
  · split <;> exact ⟨rfl, rfl, rfl, rfl, rfl, rfl⟩
  · exact OnlyInputs.refl _

theorem guiMove_onlyInputs (m : GuiMove) (s t : State) (h : guiMove m s = .next t) : OnlyInputs s t := by
  cases m with
  | setVelocity l r => cases h; exact ⟨rfl, rfl, rfl, rfl, rfl, rfl⟩
  | selectMultiplier k =>
    simp only [guiMove] at h
    split at h
    · cases h; exact ⟨rfl, rfl, rfl, rfl, rfl, rfl⟩
    · cases h
  | request p b => exact (State.enqueue_onlyHost (s.actAs .gui) t _ _ h).onlyInputs
  | clearEncoder p => exact (State.enqueue_onlyHost (s.actAs .gui) t _ _ h).onlyInputs

theorem stepBattery_onlyInputs (s t : State) (h : stepBattery s = .next t) : OnlyInputs s t := by
  unfold stepBattery at h
  split at h
  · cases h; exact OnlyInputs.refl _
  · cases h; exact OnlyInputs.refl _
  · split at h <;> cases h <;> exact ⟨rfl, rfl, rfl, rfl, rfl, rfl⟩
  · split at h
    · exact (State.enqueue_onlyHost ((s.setEnv { s.env with batt := some .sending }).actAs .battery) t _ _ h).onlyInputs
    · cases h; exact ⟨rfl, rfl, rfl, rfl, rfl, rfl⟩

theorem stepVelocity_onlyInputs (v : Velocity) (s t : State) (h : stepVelocity v s = .next t) : OnlyInputs s t := by
  unfold stepVelocity at h
  split at h
  · cases h; exact OnlyInputs.refl _
  · split at h <;> cases h <;> exact ⟨rfl, rfl, rfl, rfl, rfl, rfl⟩
  · split at h
    · exact (State.enqueue_onlyHost ((s.setPhase v.gen .sending).actAs (.velocity v.gen)) t _ _ h).onlyInputs
    · cases h; exact ⟨rfl, rfl, rfl, rfl, rfl, rfl⟩

/-- The parts of a cycle of the environment, in order. -/
theorem hostPhase_eq_next (s t : State) (h : hostPhase s = .next t) :
    ∃ s1 s2 s3 s4 s5, consume s.nextMove.1.late s.takeMove = .next s1 ∧
      forAll returnPort (List.range s1.cfg.nreq) s1 = .next s2 ∧
      forAll guiMove s.nextMove.1.gui (s2.openSequence s.inp.txOpen) = .next s3 ∧ stepBattery s3 = .next s4 ∧
      forAll stepVelocity s4.env.vels s4 = .next s5 ∧
      forAll (raisePort s.nextMove.1.hold) (List.range s5.cfg.nreq) s5 = .next t := by
  unfold hostPhase at h
  obtain ⟨s1, h1, h⟩ := andThen_eq_next.mp h
  obtain ⟨s2, h2, h⟩ := andThen_eq_next.mp h
  obtain ⟨s3, h3, h⟩ := andThen_eq_next.mp h
  obtain ⟨s4, h4, h⟩ := andThen_eq_next.mp h
  obtain ⟨s5, h5, h⟩ := andThen_eq_next.mp h
  exact ⟨s1, s2, s3, s4, s5, h1, h2, h3, h4, h5, h⟩

/-- The environment's part of a cycle leaves every register of the block as it was. -/
theorem hostPhase_onlyInputs (s t : State) (h : hostPhase s = .next t) : OnlyInputs s t := by
  obtain ⟨s1, s2, s3, s4, s5, h1, h2, h3, h4, h5, h6⟩ := hostPhase_eq_next s t h
  have k0 : OnlyInputs s s.takeMove := ⟨rfl, rfl, rfl, rfl, rfl, rfl⟩
  have k1 := consume_onlyInputs _ _ _ h1
  have k2 := forAll_keeps OnlyInputs returnPort _ OnlyInputs.refl (fun _ _ _ => OnlyInputs.trans)
    (fun i _ a b => returnPort_onlyInputs i a b) _ _ h2
  have k3 := forAll_keeps OnlyInputs guiMove _ OnlyInputs.refl (fun _ _ _ => OnlyInputs.trans)
    (fun i _ a b => guiMove_onlyInputs i a b) _ _ h3
  have k4 := stepBattery_onlyInputs _ _ h4
  have k5 := forAll_keeps OnlyInputs stepVelocity _ OnlyInputs.refl (fun _ _ _ => OnlyInputs.trans)
    (fun i _ a b => stepVelocity_onlyInputs i a b) _ _ h5
  have k6 := forAll_keeps OnlyInputs (raisePort s.nextMove.1.hold) _ OnlyInputs.refl (fun _ _ _ => OnlyInputs.trans)
    (fun i _ a b => raisePort_onlyInputs _ i a b) _ _ h6
  exact ((((((k0.trans k1).trans k2).trans (State.openSequence_onlyInputs _ _)).trans k3).trans k4).trans k5).trans k6

end Sys2Proof.Machine
end

