-- ==== Sys2Proof/Laws/Memory.lean ====
section
/-! SUPPORT. Sys2Proof/Laws/Memory.lean: the byte arrays: every operation keeps the canonical form, a read after a write, and
what an array made of a list holds. -/

namespace Sys2Proof.Machine

@[simp] theorem Memory.get_nil (k : Nat) : Memory.get [] k = none := rfl

@[simp] theorem Memory.get_put (m : Memory) (k j : Nat) (v : Byte) :
    Memory.get (Memory.put m k v) j = if j = k then some v else Memory.get m j := by
  induction m with
  | nil => simp [Memory.put, Memory.get]
  | cons c rest ih =>
    obtain ⟨a, b⟩ := c
    simp only [Memory.put]
    split_ifs <;> simp_all [Memory.get]

theorem Memory.read_put_same (p : OpenPlace) (t : Nat) (m : Memory) (k : Nat) (v : Byte) :
    Memory.read p t (Memory.put m k v) k = v := by
  simp [Memory.read]

theorem Memory.read_put_other (p : OpenPlace) (t : Nat) (m : Memory) (k j : Nat) (v : Byte) (h : j ≠ k) :
    Memory.read p t (Memory.put m k v) j = Memory.read p t m j := by
  simp [Memory.read, h]

theorem Memory.wfFrom_mono (lo lo' bound : Nat) (m : Memory) (h : lo' ≤ lo)
    (w : Memory.wfFrom lo bound m = true) : Memory.wfFrom lo' bound m = true := by
  cases m with
  | nil => rfl
  | cons c rest => simp_all [Memory.wfFrom]; omega

theorem Memory.wfFrom_put (lo bound : Nat) (m : Memory) (k : Nat) (v : Byte) (hk : k < bound) (hl : lo ≤ k)
    (w : Memory.wfFrom lo bound m = true) : Memory.wfFrom lo bound (Memory.put m k v) = true := by
  induction m generalizing lo with
  | nil => simp [Memory.put, Memory.wfFrom, hk, hl]
  | cons c rest ih =>
    obtain ⟨a, b⟩ := c
    simp only [Memory.wfFrom, Bool.and_eq_true, decide_eq_true_eq] at w
    simp only [Memory.put]
    split_ifs with h1 h2
    · simp [Memory.wfFrom, w, hk, hl]; omega
    · subst h2; simp [Memory.wfFrom, w]
    · simp only [Memory.wfFrom, w, Bool.and_eq_true, decide_eq_true_eq, true_and]
      exact ih (a + 1) (by omega) w.2

/-- A write inside the array keeps the canonical form. -/
theorem Memory.wf_put (bound : Nat) (m : Memory) (k : Nat) (v : Byte) (hk : k < bound)
    (w : Memory.wf bound m = true) : Memory.wf bound (Memory.put m k v) = true :=
  Memory.wfFrom_put 0 bound m k v hk (Nat.zero_le _) w

theorem Memory.wfFrom_fromList (lo bound : Nat) (bytes : List Byte) (h : lo + bytes.length ≤ bound) :
    Memory.wfFrom lo bound (Memory.fromList lo bytes) = true := by
  induction bytes generalizing lo with
  | nil => rfl
  | cons b rest ih =>
    simp only [List.length_cons] at h
    simp only [Memory.fromList, Memory.wfFrom, Bool.and_eq_true, decide_eq_true_eq]
    exact ⟨⟨Nat.le_refl _, by omega⟩, ih (lo + 1) (by omega)⟩

/-- A list that fits the array makes a canonical array. -/
theorem Memory.wf_fromList (bound : Nat) (bytes : List Byte) (h : bytes.length ≤ bound) :
    Memory.wf bound (Memory.fromList 0 bytes) = true :=
  Memory.wfFrom_fromList 0 bound bytes (by omega)

theorem Memory.fromList_keys (lo : Nat) (bytes : List Byte) :
    (Memory.fromList lo bytes).map Prod.fst = List.range' lo bytes.length := by
  induction bytes generalizing lo with
  | nil => rfl
  | cons b rest ih => simp [Memory.fromList, ih, List.range'_succ]

@[simp] theorem Memory.fromList_listsFirst (bytes : List Byte) :
    Memory.listsFirst bytes.length (Memory.fromList 0 bytes) := by
  simp [Memory.listsFirst, Memory.fromList_keys, List.range_eq_range']

@[simp] theorem Memory.bytes_fromList (lo : Nat) (bytes : List Byte) :
    Memory.bytes (Memory.fromList lo bytes) = bytes := by
  induction bytes generalizing lo with
  | nil => rfl
  | cons b rest ih => simp_all [Memory.bytes, Memory.fromList]

theorem Memory.get_fromList (lo : Nat) (bytes : List Byte) (k : Nat) :
    Memory.get (Memory.fromList lo bytes) (lo + k) = bytes[k]? := by
  induction bytes generalizing lo k with
  | nil => rfl
  | cons b rest ih =>
    cases k with
    | zero => simp [Memory.fromList, Memory.get]
    | succ j =>
      have := ih (lo + 1) j
      simp only [Memory.fromList, Memory.get, List.getElem?_cons_succ]
      rw [if_neg (by omega), ← this]; congr 1; omega

theorem Memory.eq_fromList_of_keys (lo : Nat) (m : Memory) (h : m.map Prod.fst = List.range' lo m.length) :
    m = Memory.fromList lo (Memory.bytes m) := by
  induction m generalizing lo with
  | nil => rfl
  | cons c rest ih =>
    obtain ⟨a, b⟩ := c
    simp only [List.map_cons, List.length_cons, List.range'_succ, List.cons.injEq] at h
    obtain ⟨rfl, h⟩ := h
    simp only [Memory.bytes, List.map_cons, Memory.fromList]
    exact congrArg _ (ih (a + 1) h)

/-- An array that lists its first entries is the one made of its bytes. -/
theorem Memory.listsFirst_eq (n : Nat) (m : Memory) (h : Memory.listsFirst n m) :
    m = Memory.fromList 0 (Memory.bytes m) ∧ (Memory.bytes m).length = n := by
  have hl : m.length = n := by have := congrArg List.length h; simpa using this
  refine ⟨Memory.eq_fromList_of_keys 0 m ?_, by simp [Memory.bytes, hl]⟩
  rw [hl, h, List.range_eq_range']

theorem Memory.listsFirst_wf (n bound : Nat) (m : Memory) (h : Memory.listsFirst n m) (hb : n ≤ bound) :
    Memory.wf bound m = true := by
  obtain ⟨e, l⟩ := Memory.listsFirst_eq n m h
  rw [e]
  exact Memory.wf_fromList bound _ (by omega)

/-- The entries of an array that lists its first ones read as its bytes, at every tick. -/
theorem Memory.slice_listsFirst (p : OpenPlace) (t n : Nat) (m : Memory) (h : Memory.listsFirst n m) :
    Memory.slice p t m 0 n = Memory.bytes m := by
  obtain ⟨e, l⟩ := Memory.listsFirst_eq n m h
  apply List.ext_getElem
  · simp [Memory.slice, l]
  · intro k h1 h2
    have hk := Memory.get_fromList 0 (Memory.bytes m) k
    rw [← e] at hk
    simp only [Nat.zero_add] at hk
    simp [Memory.slice, Memory.read, hk, List.getElem?_eq_getElem h2]

/-- After reset the three arrays are in canonical form: nothing of them is listed. -/
theorem State.reset_arraysCanonical : State.reset.arraysCanonical := ⟨rfl, rfl, rfl⟩

end Sys2Proof.Machine
end

