-- ==== Sys2Proof/Laws/Codec.lean ====
section
/-! SUPPORT. Sys2Proof/Laws/Codec.lean: the XOR of byte lists, the frame function and the byte the serializer offers. -/

namespace Sys2Proof.Machine

@[simp] theorem xorReduce_nil : xorReduce [] = 0 := rfl
@[simp] theorem xorReduce_cons (b : Byte) (rest : List Byte) : xorReduce (b :: rest) = b ^^^ xorReduce rest := rfl

@[simp] theorem xorReduce_append (xs ys : List Byte) : xorReduce (xs ++ ys) = xorReduce xs ^^^ xorReduce ys := by
  induction xs with
  | nil => simp
  | cons b rest ih => simp [ih, BitVec.xor_assoc]

theorem xorReduce_take_succ (xs : List Byte) (k : Nat) (b : Byte) (h : xs[k]? = some b) :
    xorReduce (xs.take (k + 1)) = xorReduce (xs.take k) ^^^ b := by
  rw [List.take_add_one, h]; simp

@[simp] theorem frameHead_length (body : List Byte) (seq : Byte) : (frameHead body seq).length = body.length + 4 := by
  simp [frameHead]

@[simp] theorem encodeFrame_length (body : List Byte) (seq : Byte) :
    (encodeFrame body seq).length = body.length + 5 := by
  simp [encodeFrame]

/-- The captured body of an arbiter that lists it is what it lists, at every tick. -/
theorem State.capturedBody_eq (s : State) (h : Memory.listsFirst s.arb.len.toNat s.arb.body) :
    s.capturedBody = Memory.bytes s.arb.body :=
  Memory.slice_listsFirst _ _ _ _ h

/-- The captured body's entries read as the bytes listed. -/
theorem State.bodyAt_eq (s : State) (h : Memory.listsFirst s.arb.len.toNat s.arb.body) (k : Nat)
    (hk : k < s.arb.len.toNat) : (Memory.bytes s.arb.body)[k]? = some (s.bodyAt k) := by
  obtain ⟨e, l⟩ := Memory.listsFirst_eq _ _ h
  have hg := Memory.get_fromList 0 (Memory.bytes s.arb.body) k
  rw [← e, Nat.zero_add] at hg
  have hb : k < (Memory.bytes s.arb.body).length := by omega
  rw [List.getElem?_eq_getElem hb] at hg ⊢
  simp [State.bodyAt, Memory.read, hg]

end Sys2Proof.Machine
end

