-- ==== Sys2Proof/Laws/PerInstr.lean ====
section
/-! SUPPORT. Sys2Proof/Laws/PerInstr.lean: what holds of every row as syntax: its word has the length its format gives it. -/

namespace Sys2Proof.Laws

/-- The bytes of a row's word: DW's 11 bits take two bytes, AW, `rx_valid`, `rst` and a received ID one (R89, R91, R92);
a frame has `LEN + 5` bytes (R80); a sent body has LEN bytes (R82, R95, R96). -/
def wordLength (i : Instr) : Nat :=
  match i with
  | .decSeek1Magic | .decSeek1Discard _ | .decSeek2Magic | .decSeek2Discard _ | .decLenAccept2 | .decLenAccept9
  | .decLenReject _ | .decFillStore _ | .decFillCheckOk _ | .decFillCheckBad _ => 2
  | .frameLen2 .. => 7
  | .frameLen9 .. => 14
  | .idVelocity .. => 9
  | .idBatteryQuery => 2
  | .idClearEncoder payload => payload.length + 1
  | .decIdle | .arbIdleWait | .arbClosedNoop | .arbGrant | .arbSendAbort | .arbSendStall | .arbSendByte | .arbSendLast
  | .arbGapCount | .arbGapDone | .arbBadState | .frameByte | .csumInit | .csumStep | .encode | .reset
  | .idBatteryReport | .idResetAck | .idTimeout => 1

/-- The encoder gives a row's word its length. -/
def EncodedLength.Statement (i : Instr) : Prop := (encode i).2.length = wordLength i

theorem EncodedLength.decIdle : EncodedLength.Statement .decIdle := rfl
theorem EncodedLength.decSeek1Magic : EncodedLength.Statement .decSeek1Magic := rfl
theorem EncodedLength.decSeek1Discard (b : Byte) : EncodedLength.Statement (.decSeek1Discard b) := rfl
theorem EncodedLength.decSeek2Magic : EncodedLength.Statement .decSeek2Magic := rfl
theorem EncodedLength.decSeek2Discard (b : Byte) : EncodedLength.Statement (.decSeek2Discard b) := rfl
theorem EncodedLength.decLenAccept2 : EncodedLength.Statement .decLenAccept2 := rfl
theorem EncodedLength.decLenAccept9 : EncodedLength.Statement .decLenAccept9 := rfl
theorem EncodedLength.decLenReject (b : Byte) : EncodedLength.Statement (.decLenReject b) := rfl
theorem EncodedLength.decFillStore (b : Byte) : EncodedLength.Statement (.decFillStore b) := rfl
theorem EncodedLength.decFillCheckOk (b : Byte) : EncodedLength.Statement (.decFillCheckOk b) := rfl
theorem EncodedLength.decFillCheckBad (b : Byte) : EncodedLength.Statement (.decFillCheckBad b) := rfl
theorem EncodedLength.arbIdleWait : EncodedLength.Statement .arbIdleWait := rfl
theorem EncodedLength.arbClosedNoop : EncodedLength.Statement .arbClosedNoop := rfl
theorem EncodedLength.arbGrant : EncodedLength.Statement .arbGrant := rfl
theorem EncodedLength.arbSendAbort : EncodedLength.Statement .arbSendAbort := rfl
theorem EncodedLength.arbSendStall : EncodedLength.Statement .arbSendStall := rfl
theorem EncodedLength.arbSendByte : EncodedLength.Statement .arbSendByte := rfl
theorem EncodedLength.arbSendLast : EncodedLength.Statement .arbSendLast := rfl
theorem EncodedLength.arbGapCount : EncodedLength.Statement .arbGapCount := rfl
theorem EncodedLength.arbGapDone : EncodedLength.Statement .arbGapDone := rfl
theorem EncodedLength.arbBadState : EncodedLength.Statement .arbBadState := rfl
theorem EncodedLength.frameByte : EncodedLength.Statement .frameByte := rfl
theorem EncodedLength.csumInit : EncodedLength.Statement .csumInit := rfl
theorem EncodedLength.csumStep : EncodedLength.Statement .csumStep := rfl
theorem EncodedLength.encode : EncodedLength.Statement .encode := rfl
theorem EncodedLength.reset : EncodedLength.Statement .reset := rfl
theorem EncodedLength.frameLen2 (seq id payload csum : Byte) : EncodedLength.Statement (.frameLen2 seq id payload csum) := rfl
theorem EncodedLength.frameLen9 (seq id p0 p1 p2 p3 p4 p5 p6 p7 csum : Byte) : EncodedLength.Statement (.frameLen9 seq id p0 p1 p2 p3 p4 p5 p6 p7 csum) := rfl
theorem EncodedLength.idVelocity (left right : Wheel) : EncodedLength.Statement (.idVelocity left right) := rfl
theorem EncodedLength.idBatteryQuery : EncodedLength.Statement .idBatteryQuery := rfl
theorem EncodedLength.idBatteryReport : EncodedLength.Statement .idBatteryReport := rfl
theorem EncodedLength.idResetAck : EncodedLength.Statement .idResetAck := rfl
theorem EncodedLength.idClearEncoder (payload : List Byte) : EncodedLength.Statement (.idClearEncoder payload) := rfl
theorem EncodedLength.idTimeout : EncodedLength.Statement .idTimeout := rfl

end Sys2Proof.Laws
end

