-- ==== Sys2Proof/Machine/Stimulus.lean ====
section
/-! DEFINITION. Sys2Proof/Machine/Stimulus.lean: the stimulus notation of R99: a program is a list of directives executed in
order, each edge of which is one clock edge with the inputs the directives set. -/

namespace Sys2Proof.Machine

/-- A directive of R99. -/
inductive Directive where
  /-- `RESET`: one edge with `rst = 1`. -/
  | reset
  /-- `FEED b0 b1 ...`: consecutive edges, one a byte. -/
  | feed (bytes : List Byte)
  /-- `GAP n`: edges with `rx_valid = 0`. -/
  | gap (n : Nat)
  /-- `REQ i, body`: the request is raised in the next cycle and held until `done[i]`. -/
  | req (port : Nat) (body : List Byte)
  /-- `OPEN`: `tx_open = 1` from the next edge on. -/
  | open_
  /-- `CLOSE`: `tx_open = 0` from the next edge on. -/
  | close
  /-- `READY`: `tx_ready = 1` from the next edge on. -/
  | ready
  /-- `STALL`: `tx_ready = 0` from the next edge on. -/
  | stall
  /-- `RUN n`: edges with the inputs as currently set; no byte is offered (`rx_valid = 0`, log 24). -/
  | run (n : Nat)
  /-- `SENDFRAME i, body`: `REQ i, body`, then `RUN` until `done[i]`; here at most `limit` edges. -/
  | sendFrame (port : Nat) (body : List Byte) (limit : Nat)
  /-- `FEEDFRAME seq, body`: `FEED` of `ENCODE(body, seq)`; refused for a body of 256 bytes or more (R141, log 25). -/
  | feedFrame (seq : Byte) (body : List Byte)
  deriving DecidableEq, Repr

/-- The inputs as currently set, and the requests to raise in the next cycle. -/
structure Line where
  txOpen : Bool
  txReady : Bool
  gui : List GuiMove
  deriving DecidableEq, Repr

/-- The lines after reset and before any directive. DESIGN CHOICE (log 2). -/
def Line.initial : Line := { txOpen := false, txReady := false, gui := [] }

/-- The inputs of one cycle of a program: the lines as set, the requests of `REQ` raised and held until their done
(R193). The supervisor and the dispatch by ID do not run, since R99 lets nothing but the directives change an input; the
consumer only records the event. DESIGN CHOICE (log 24). -/
def Line.drive (l : Line) (rst : Bool) (rx : Option Byte) (s : State) : Result :=
  let m : Move := { rst := rst, rx := rx, txReady := l.txReady, txOpen := l.txOpen, gui := l.gui }
  let t := s.sample m
  let t := t.setEnv { t.env with calls := t.env.calls ++ (if t.ev.valid then t.eventCall.toList else []) }
  andThen (forAll returnPort (List.range t.cfg.nreq) t) fun u =>
  andThen (forAll guiMove l.gui u) fun v => forAll (raisePort []) (List.range v.cfg.nreq) v

/-- One edge with the lines as set. -/
def Line.edge (l : Line) (rst : Bool) (rx : Option Byte) (s : State) : Result :=
  andThen (l.drive rst rx s) fun t =>
  andThen (clockEdge t) fun u => .next u.advance

/-- The lines once the raised requests have been taken. -/
def Line.taken (l : Line) : Line := { l with gui := [] }

/-- Edges that offer the given beats in order; the requests go out with the first. -/
def Line.beats (rxs : List (Option Byte)) (l : Line) (s : State) : Line × Result :=
  match rxs with
  | [] => (l, .next s)
  | rx :: rest => (l.taken, andThen (l.edge false rx s) fun t => (Line.beats rest l.taken t).2)

/-- `RUN` until `done[port]`, at most `limit` edges. -/
def Line.runUntilDone (limit port : Nat) (l : Line) (s : State) : Line × Result :=
  match limit with
  | 0 => (l, .next s)
  | k + 1 =>
    (l.taken, andThen (l.edge false none s) fun t =>
      if (t.arb.outs[port]?.map (·.done)).getD false then .next t else (Line.runUntilDone k port l.taken t).2)

/-- One directive. R99 lets no directive set `rx_valid` or `rst` for longer than its own edges: a byte is offered at the edges
of `FEED` and `FEEDFRAME` only, also when `RUN` or `SENDFRAME` follows a `FEED`, and `rst` is 1 at that of `RESET` only.
DESIGN CHOICE (log 24). -/
def Directive.exec (d : Directive) (l : Line) (s : State) : Line × Result :=
  match d with
  | .reset => (l.taken, l.edge true none s)
  | .feed bytes => Line.beats (bytes.map some) l s
  | .gap n | .run n => Line.beats (List.replicate n none) l s
  | .req port body => ({ l with gui := l.gui ++ [.request port body] }, .next s)
  | .open_ => ({ l with txOpen := true }, .next s)
  | .close => ({ l with txOpen := false }, .next s)
  | .ready => ({ l with txReady := true }, .next s)
  | .stall => ({ l with txReady := false }, .next s)
  | .sendFrame port body limit => Line.runUntilDone limit port { l with gui := l.gui ++ [.request port body] } s
  | .feedFrame seq body =>
    if body.length < 256 then Line.beats ((encodeFrame body seq).map some) l s else (l, .refused .bodyTooLong)

/-- A program: its directives in order (R99). -/
def runProgram (p : List Directive) (l : Line) (s : State) : Result :=
  match p with
  | [] => .next s
  | d :: rest => andThen (d.exec l s).2 fun t => runProgram rest (d.exec l s).1 t

end Sys2Proof.Machine
end

