-- ==== Sys2Proof/Tests/Slice0.lean ====
section
/-! SUPPORT. Sys2Proof/Tests/Slice0.lean: small tests of single rows and single cycles against 95_test_vectors.md and words
written out from 30_encoding.md, and for each statement with hypotheses a witness that they can be met together. -/

namespace Sys2Proof.Tests

open Sys2Proof.Machine

/-! ### Well-formedness: one ill-formed term a check -/

theorem test_wf_seek1_discard : (Instr.decSeek1Discard 0x55).wellFormed = false ∧
    (Instr.decSeek1Discard 0xAA).wellFormed = true := by decide
theorem test_wf_seek2_discard : (Instr.decSeek2Discard 0xAA).wellFormed = false ∧
    (Instr.decSeek2Discard 0x55).wellFormed = true := by decide
theorem test_wf_len_reject : (Instr.decLenReject 0x02).wellFormed = false ∧
    (Instr.decLenReject 0x09).wellFormed = false ∧ (Instr.decLenReject 0x07).wellFormed = true := by decide
theorem test_wf_clear_encoder : (Instr.idClearEncoder (List.replicate 255 0)).wellFormed = false ∧
    (Instr.idClearEncoder (List.replicate 254 0)).wellFormed = true := by
  simp only [Instr.wellFormed, List.length_replicate]; decide

/-! ### Words written out from the spec (R89 to R97, R142, R164, R250, R80) -/

/-- DW = at_last, st, rx_data: 0 00 01010101 (R90 row 1). -/
theorem test_word_seek1_magic : decodeDw false 0b00001010101 = .ok .decSeek1Magic := by decide
theorem test_word_seek1_discard : decodeDw true 0b00010101010 = .ok (.decSeek1Discard 0xAA) := by decide
theorem test_word_seek2_magic : decodeDw true 0b00110101010 = .ok .decSeek2Magic := by decide
theorem test_word_seek2_discard : decodeDw true 0b00101010101 = .ok (.decSeek2Discard 0x55) := by decide
theorem test_word_len_accept_2 : decodeDw true 0b01000000010 = .ok .decLenAccept2 := by decide
theorem test_word_len_accept_9 : decodeDw true 0b01000001001 = .ok .decLenAccept9 := by decide
theorem test_word_len_reject : decodeDw true 0b01000000111 = .ok (.decLenReject 0x07) := by decide
theorem test_word_fill_store : decodeDw true 0b01100010000 = .ok (.decFillStore 0x10) := by decide
theorem test_word_fill_check_ok : decodeDw true 0b11110001011 = .ok (.decFillCheckOk 0x8B) := by decide
theorem test_word_fill_check_bad : decodeDw false 0b11110001011 = .ok (.decFillCheckBad 0x8B) := by decide
/-- R90: `at_last = 1` occurs in FILL only, so DW 0x4xx to 0x6xx is no row. -/
theorem test_word_impossible : decodeDw true 0x400 = .error .impossibleWord ∧
    decodeDw true 0x5FF = .error .impossibleWord ∧ decodeDw true 0x6AA = .error .impossibleWord := by decide
theorem test_word_idle : decode .rxValid [0] = .ok .decIdle ∧ decode .rxValid [1] = .error .notSelected := by decide
theorem test_word_reset : decode .rst [1] = .ok .reset ∧ decode .rst [0] = .error .notSelected := by decide
/-- AW = gap_last, at_end, tx_ready, tx_open, pend, a_st (R91). -/
theorem test_word_idle_wait : decodeAw 0b1111000 = .ok .arbIdleWait := by decide
theorem test_word_closed_noop : decodeAw 0b0010100 = .ok .arbClosedNoop := by decide
theorem test_word_grant : decodeAw 0b0001100 = .ok .arbGrant := by decide
theorem test_word_send_abort : decodeAw 0b0110101 = .ok .arbSendAbort := by decide
theorem test_word_send_stall : decodeAw 0b0101001 = .ok .arbSendStall := by decide
theorem test_word_send_byte : decodeAw 0b0011001 = .ok .arbSendByte := by decide
theorem test_word_send_last : decodeAw 0b0111101 = .ok .arbSendLast := by decide
theorem test_word_gap_count : decodeAw 0b0111110 = .ok .arbGapCount := by decide
theorem test_word_gap_done : decodeAw 0b1000010 = .ok .arbGapDone := by decide
theorem test_word_bad_state : decodeAw 0b1111111 = .ok .arbBadState := by decide
theorem test_word_frame_byte : decode .awOutput [0b0001001] = .ok .frameByte ∧
    decode .awOutput [0b0000010] = .error .otherRow := by decide
theorem test_word_csum_init : decode .awGrantPart [0b0001100] = .ok .csumInit ∧
    decode .awGrantPart [0b0000100] = .error .otherRow := by decide
theorem test_word_csum_step : decode .awBytePart [0b0011001] = .ok .csumStep ∧
    decode .awBytePart [0b0111001] = .error .otherRow := by decide
theorem test_word_encode : decode .awFrame [0b0000001] = .ok .encode ∧
    decode .awFrame [0b0000000] = .error .otherRow := by decide
/-- W3: frame FB10. -/
theorem test_word_frame_len2 : decode .wire [0x55, 0xAA, 0x02, 0x10, 0x02, 0x64, 0x8B] =
    .ok (.frameLen2 0x10 0x02 0x64 0x8B) := by decide
/-- W1: frame FV3. -/
theorem test_word_frame_len9 :
    decode .wire [0x55, 0xAA, 0x09, 0x03, 0x01, 0x00, 0x05, 0x00, 0x07, 0x00, 0x00, 0x00, 0x00, 0xF6] =
    .ok (.frameLen9 0x03 0x01 0x00 0x05 0x00 0x07 0x00 0x00 0x00 0x00 0xF6) := by decide
theorem test_word_no_frame : decode .wire [0xAA, 0x55, 0x02] = .error .badMagic ∧
    decode .wire [0x55, 0xAA, 0x07] = .error .badLength ∧
    decode .wire [0x55, 0xAA, 0x02, 0x10] = .error .wrongLength := by decide
/-- W2: left 5, right 7. -/
theorem test_word_velocity : decode .sentBody [0x01, 0x00, 0x05, 0x00, 0x07, 0x00, 0x00, 0x00, 0x00] =
    .ok (.idVelocity 5 7) := by decide
theorem test_word_battery_query : decode .sentBody [0x02, Config.bq1] = .ok .idBatteryQuery ∧
    decode .sentBody [0x02, ~~~Config.bq1] = .error .otherBody := by
  have h : (~~~Config.bq1 == Config.bq1) = false := by rw [beq_eq_false_iff_ne]; intro h; bv_omega
  exact ⟨by simp [decode, decodeSent], by simp [decode, decodeSent, h]⟩
/-- A velocity body ends in four bytes 00 (R95). -/
theorem test_word_other_body : decode .sentBody [0x01, 0x00, 0x05, 0x00, 0x07, 0x00, 0x00, 0x00, 0x01] =
    .error .otherBody := by decide
theorem test_word_clear_encoder : decode .sentBody [0x06, 0x00] = .ok (.idClearEncoder [0x00]) := by decide
theorem test_word_received : decode .receivedId [0x02] = .ok .idBatteryReport ∧
    decode .receivedId [0x05] = .ok .idResetAck ∧ decode .receivedId [0xFF] = .ok .idTimeout ∧
    decode .receivedId [0x01] = .error .unknownId := by decide
/-- The table's numbering: a word of two bytes, a word of one byte, a frame on either side. -/
theorem test_table_words : decodeTableWord 16 0x55 = some .decSeek1Magic ∧ decodeTableWord 8 0x39 = some .arbSendLast ∧
    decodeTableWord 8 0xFF = some .idTimeout ∧
    decodeTableWord 56 0x8B64021002AA55 = some (.frameLen2 0x10 0x02 0x64 0x8B) ∧
    decodeTableWord 56 0x55AA021002648B = some (.frameLen2 0x10 0x02 0x64 0x8B) := by decide

/-! ### Small states -/

/-- Whether a row answers a next state that passes a check. -/
def passes (r : Result) (p : State → Bool) : Bool :=
  match r with
  | .next t => p t
  | .fault _ => false
  | .refused _ => false

/-- After reset, the decoder in a state. -/
def inState (st : DecSt) : State := State.reset.goto st

/-- FB10 without its checksum byte, in FILL. -/
def fb10 : State :=
  State.reset.setDec { st := .fill, dlen := 0x02, cur := 6, buf := Memory.fromList 0 [0x55, 0xAA, 0x02, 0x10, 0x02, 0x64] }

/-- FV3 without its checksum byte, in FILL. -/
def fv3 : State :=
  State.reset.setDec { st := .fill, dlen := 0x09, cur := 13,
                       buf := Memory.fromList 0 [0x55, 0xAA, 0x09, 0x03, 0x01, 0x00, 0x05, 0x00, 0x07, 0x00, 0x00, 0x00, 0x00] }

/-- FILL of a frame of length `dlen` with the cursor at `cur`. -/
def filling (dlen : Byte) (cur : BitVec 4) : State :=
  State.reset.setDec { st := .fill, dlen := dlen, cur := cur, buf := Memory.fromList 0 [0x55, 0xAA, dlen] }

/-- The lines of the transmit side. -/
def lines (open_ ready : Bool) (s : State) : State := s.setInp { s.inp with txOpen := open_, txReady := ready }

/-- A port requests a body. -/
def requesting (port : Nat) (body : List Byte) (s : State) : State :=
  s.setInp { s.inp with
    req := List.set s.inp.req port { valid := true, len := BitVec.ofNat 8 body.length, data := body } }

/-- SEND of the body `[02, 00]` on port 1 with the cursor at `cur`. -/
def sending (seq csum : Byte) (cur : BitVec 9) : State :=
  State.reset.setArb { State.reset.arb with
    st := .send, gnt := 1, len := 2, body := Memory.fromList 0 [0x02, 0x00], cur := cur, csum := csum, seqCtr := seq }

/-- GAP after a send of port 1. -/
def waiting (gap : BitVec 16) : State :=
  State.reset.setArb { State.reset.arb with st := .gap, gnt := 1, gap := gap, seqCtr := 1 }

/-- The machine built without a gap. -/
def noGap (s : State) : State := { s with cfg := { s.cfg with gap := 0 } }

/-- One coming cycle with a byte or none, the transmit lines as given. -/
def coming (rx : Option Byte) (open_ ready : Bool) (gui : List GuiMove) (s : State) : State :=
  s.schedule [{ rst := false, rx := rx, txReady := ready, txOpen := open_, gui := gui }]

/-! ### Decoder vectors (95_test_vectors.md, section 2) -/

/-- DV-IDLE. -/
theorem test_dec_idle : passes (exec .decIdle (inState .rl)) fun t =>
    t.dec == (inState .rl).dec && !t.ev.valid := by decide
/-- DV-S1-1, DV-S1-2. -/
theorem test_dec_seek1 : (passes (feed 0x55 (inState .s1)) fun t => t.dec.st == .s2) ∧
    passes (feed 0xAA (inState .s1)) fun t => t.dec.st == .s1 := by decide
/-- DV-S2-1, DV-S2-2, and a second 0x55 (C2). -/
theorem test_dec_seek2 : (passes (feed 0xAA (inState .s2)) fun t => t.dec.st == .rl) ∧
    (passes (feed 0x00 (inState .s2)) fun t => t.dec.st == .s1) ∧
    passes (feed 0x55 (inState .s2)) fun t => t.dec.st == .s1 := by decide
/-- DV-RL-1. -/
theorem test_dec_len_accept_2 : passes (feed 0x02 (inState .rl)) fun t =>
    t.dec == { st := .fill, dlen := 0x02, cur := 3, buf := [(0, 0x55), (1, 0xAA), (2, 0x02)] } := by decide
/-- DV-RL-2. -/
theorem test_dec_len_accept_9 : passes (feed 0x09 (inState .rl)) fun t =>
    t.dec == { st := .fill, dlen := 0x09, cur := 3, buf := [(0, 0x55), (1, 0xAA), (2, 0x09)] } := by decide
/-- DV-RL-3. -/
theorem test_dec_len_reject : [0x00, 0x01, 0x03, 0x04, 0x05, 0x06, 0x07, 0x08, 0x0A, 0x55, 0xAA, 0xFF].all fun b =>
    passes (feed b (inState .rl)) fun t => t.dec.st == .s1 && !t.ev.valid := by decide
/-- DV-F-1. -/
theorem test_dec_fill_store : passes (feed 0x10 (filling 0x02 3)) fun t =>
    t.dec.st == .fill && t.dec.cur == 4 && Memory.get t.dec.buf 3 == some 0x10 := by decide
/-- DV-F-2, its last byte. -/
theorem test_dec_check_ok : passes (feed 0x8B fb10) fun t =>
    t.ev == { valid := true, kind := .ready, id := 0x02, seq := 0x10, len := 1, bytes := [(0, 0x64)] }
      && t.dec.st == .s1 && t.dec.dlen == 0x02 && t.dec.cur == 6 := by decide
/-- DV-F-3, its last byte. -/
theorem test_dec_check_bad : passes (feed 0x8A fb10) fun t =>
    t.ev == { valid := true, kind := .mismatch, id := 0, seq := 0, len := 7,
              bytes := Memory.fromList 0 [0x55, 0xAA, 0x02, 0x10, 0x02, 0x64, 0x8A] }
      && t.dec.st == .s1 && t.dec.cur == 6 := by decide
/-- DV-F-4, DV-F-5, their last bytes. -/
theorem test_dec_check_9 : (passes (feed 0xF6 fv3) fun t =>
      t.ev.kind == .ready && t.ev.id == 0x01 && t.ev.seq == 0x03 && t.ev.len == 8
        && t.ev.bytes == Memory.fromList 0 [0x00, 0x05, 0x00, 0x07, 0x00, 0x00, 0x00, 0x00]) ∧
    passes (feed 0xF7 fv3) fun t => t.ev.kind == .mismatch && t.ev.len == 14 := by decide
/-- DV-F-7: magic values inside FILL are data. -/
theorem test_frame_len2_magic : passes (exec (.frameLen2 0x55 0x55 0xAA 0x57) (inState .s1)) fun t =>
    t.ev == { valid := true, kind := .ready, id := 0x55, seq := 0x55, len := 1, bytes := [(0, 0xAA)] } := by decide
/-- DV-F-9: a flipped payload bit. -/
theorem test_frame_len2_bad : passes (exec (.frameLen2 0x10 0x02 0x65 0x8B) (inState .s1)) fun t =>
    t.ev.kind == .mismatch && t.ev.bytes == Memory.fromList 0 [0x55, 0xAA, 0x02, 0x10, 0x02, 0x65, 0x8B] := by decide
/-- DV-F-4, whole. -/
theorem test_frame_len9 :
    passes (exec (.frameLen9 0x03 0x01 0x00 0x05 0x00 0x07 0x00 0x00 0x00 0x00 0xF6) (inState .s1)) fun t =>
      t.dec.st == .s1 && t.dec.dlen == 0x09 && t.dec.cur == 13 && t.ev.kind == .ready && t.ev.len == 8 := by decide
/-- DV-F-8: a frame cut short swallows the next one's head. -/
theorem test_frame_cut_short :
    passes (feedAll [0x55, 0xAA, 0x02, 0x10, 0x02, 0x55, 0xAA] (inState .s1)) fun t =>
      t.ev.kind == .mismatch && t.ev.bytes == Memory.fromList 0 [0x55, 0xAA, 0x02, 0x10, 0x02, 0x55, 0xAA] := by decide

/-! ### Encoder vectors (95_test_vectors.md, section 3) -/

/-- EV-1, EV-2. -/
theorem test_encode_2 : encodeFrame [0x02, 0x00] 0x00 = [0x55, 0xAA, 0x02, 0x00, 0x02, 0x00, 0xFF] ∧
    encodeFrame [0x02, 0x00] 0xFF = [0x55, 0xAA, 0x02, 0xFF, 0x02, 0x00, 0x00] := by decide
/-- EV-3, EV-4. -/
theorem test_encode_short : encodeFrame [] 0x00 = [0x55, 0xAA, 0x00, 0x00, 0xFF] ∧
    encodeFrame [0x05] 0x00 = [0x55, 0xAA, 0x01, 0x00, 0x05, 0xFB] := by decide
/-- W1, EV-6. -/
theorem test_encode_9 : encodeFrame [0x01, 0x00, 0x05, 0x00, 0x07, 0x00, 0x00, 0x00, 0x00] 0x03 =
      [0x55, 0xAA, 0x09, 0x03, 0x01, 0x00, 0x05, 0x00, 0x07, 0x00, 0x00, 0x00, 0x00, 0xF6] ∧
    encodeFrame [0x01, 0xFF, 0xFB, 0x00, 0x08, 0x00, 0x00, 0x00, 0x00] 0x02 =
      [0x55, 0xAA, 0x09, 0x02, 0x01, 0xFF, 0xFB, 0x00, 0x08, 0x00, 0x00, 0x00, 0x00, 0xF9] := by decide
/-- EV-8: the running XOR 00, 55, FF, FD, FD, FF, FF. -/
theorem test_csum_step : (passes (exec .csumInit (sending 0x00 0x77 0)) fun t => t.arb.csum == 0x00) ∧
    (passes (exec .csumStep (sending 0x00 0x00 0)) fun t => t.arb.csum == 0x55) ∧
    (passes (exec .csumStep (sending 0x00 0x55 1)) fun t => t.arb.csum == 0xFF) ∧
    (passes (exec .csumStep (sending 0x00 0xFF 2)) fun t => t.arb.csum == 0xFD) ∧
    passes (exec .csumStep (sending 0x00 0xFD 4)) fun t => t.arb.csum == 0xFF := by decide
/-- The row ENCODE on the captured body of EV-1. -/
theorem test_encode_row : passes (exec .encode (sending 0x00 0x00 0)) fun t =>
    t.tx.frame == [0x55, 0xAA, 0x02, 0x00, 0x02, 0x00, 0xFF] := by decide
/-- AV-6: `FRAME_BYTE(3)` is the SEQ byte; the checksum byte comes at `a_len + 4`. -/
theorem test_frame_byte : (passes (exec .frameByte (sending 0x42 0x00 3)) fun t => t.tx.valid && t.tx.data == 0x42) ∧
    passes (exec .frameByte (sending 0x42 0x99 6)) fun t => t.tx.valid && t.tx.data == 0x99 := by decide

/-! ### Arbiter vectors (95_test_vectors.md, section 4) -/

/-- AV-1. -/
theorem test_arb_idle_wait : passes (exec .arbIdleWait State.reset) fun t =>
    t.arb == State.reset.arb := by decide
/-- AV-2. -/
theorem test_arb_closed_noop : passes (exec .arbClosedNoop (requesting 1 [0x02, 0x00] State.reset)) fun t =>
    t.arb.st == .idle && t.arb.outs[1]? == some { done := true, status := .closed }
      && t.arb.outs[0]? == some { done := false, status := .ok } && t.arb.seqCtr == 0x00 := by decide
/-- AV-4 with one port. -/
theorem test_arb_grant : passes (exec .arbGrant (lines true true (requesting 2 [0x02, 0x00] State.reset))) fun t =>
    t.arb.st == .send && t.arb.gnt == 2 && t.arb.cur == 0 && t.arb.csum == 0x00
      && t.arb.body == [(0, 0x02), (1, 0x00)] && t.env.wire == [] := by decide
/-- AV-5. -/
theorem test_arb_send_byte : passes (exec .arbSendByte (lines true true (sending 0x00 0x00 0))) fun t =>
    t.env.wire == [0x55] && t.arb.cur == 1 && t.arb.csum == 0x55 && t.arb.st == .send := by decide
/-- AV-6. -/
theorem test_arb_send_stall : passes (exec .arbSendStall (lines true false (sending 0x42 0x00 3))) fun t =>
    t.arb == (sending 0x42 0x00 3).arb && t.offeredByte == 0x42 && t.env.wire == [] := by decide
/-- AV-7. -/
theorem test_arb_send_last : passes (exec .arbSendLast (lines true true (sending 0xFF 0x00 6))) fun t =>
    t.env.wire == [0x00] && t.arb.seqCtr == 0x00 && t.arb.st == .gap && t.arb.gap == 20 := by decide
/-- AV-8. -/
theorem test_arb_send_last_no_gap : passes (exec .arbSendLast (noGap (lines true true (sending 0xFF 0x00 6)))) fun t =>
    t.arb.st == .idle && t.arb.outs[1]? == some { done := true, status := .ok } && t.arb.seqCtr == 0x00 := by decide
/-- AV-9. -/
theorem test_arb_send_abort : passes (exec .arbSendAbort (lines false true (sending 0x07 0x00 4))) fun t =>
    t.env.wire == [] && t.arb.st == .idle && t.arb.outs[1]? == some { done := true, status := .closed }
      && t.arb.seqCtr == 0x07 := by decide
/-- AV-10. -/
theorem test_arb_gap_count : passes (exec .arbGapCount (waiting 20)) fun t =>
    t.arb.st == .gap && t.arb.gap == 19 := by decide
/-- AV-11. -/
theorem test_arb_gap_done : passes (exec .arbGapDone (waiting 1)) fun t =>
    t.arb.st == .idle && t.arb.outs[1]? == some { done := true, status := .ok } && t.arb.gap == 1 := by decide
/-- AV-12: a port is not eligible in its done cycle. -/
theorem test_arb_done_cycle : passes (exec .arbGapDone (requesting 1 [0x02, 0x00] (waiting 1))) fun t =>
    t.pending == [] && t.arbRow.toOption == some .arbIdleWait := by decide
/-- AV-13. -/
theorem test_arb_bad_state : exec .arbBadState State.reset = .fault .badArbiterState := rfl

/-! ### Reset and host vectors (95_test_vectors.md, sections 5 and 6) -/

/-- RV-1, RV-2: the decoder in FILL, the arbiter in SEND. -/
theorem test_reset : passes (exec .reset ((sending 0x05 0x55 3).setDec fb10.dec)) fun t =>
    t.dec == Dec.reset && t.ev == Ev.reset && t.arb == State.reset.arb && !t.tx.valid && t.env.wire == [] := by decide
/-- HV-1 to HV-4. -/
theorem test_velbody : velBody 5 7 1 = [0x01, 0x00, 0x05, 0x00, 0x07, 0x00, 0x00, 0x00, 0x00] ∧
    velBody (-5) 8 1 = [0x01, 0xFF, 0xFB, 0x00, 0x08, 0x00, 0x00, 0x00, 0x00] ∧
    velBody 5 7 8 = [0x01, 0x00, 0x28, 0x00, 0x38, 0x00, 0x00, 0x00, 0x00] ∧
    velBody 5000 0 8 = [0x01, 0x9C, 0x40, 0x00, 0x00, 0x00, 0x00, 0x00, 0x00] := by decide
/-- W2, R204: the velocity body waits on port 1. -/
theorem test_id_velocity : passes (exec (.idVelocity 5 7) State.reset) fun t =>
    (t.env.lanes[1]?.map (·.waiting)) ==
      some [{ owner := .gui, body := [0x01, 0x00, 0x05, 0x00, 0x07, 0x00, 0x00, 0x00, 0x00] }] := by decide
/-- HV-5: the battery query waits on port 0. -/
theorem test_id_battery_query : passes (exec .idBatteryQuery State.reset) fun t =>
    (t.env.lanes[0]?.map fun l => l.waiting.map fun x => x.body.take 1) == some [[0x02]] := by decide
/-- R204: a one-shot send waits on port 2. -/
theorem test_id_clear_encoder : passes (exec (.idClearEncoder [0x00]) State.reset) fun t =>
    (t.env.lanes[2]?.map (·.waiting)) == some [{ owner := .gui, body := [0x06, 0x00] }] := by decide
/-- R195: the consumer takes a Command; R196: the sentinel asks for the reset send on port 2. -/
theorem test_ids_received : (passes (exec .idBatteryReport State.reset) fun t => t.env.calls == [.onDecoded 0 0 []]) ∧
    (passes (exec .idResetAck State.reset) fun t => t.env.calls == [.onDecoded 0 0 []]) ∧
    passes (exec .idTimeout State.reset) fun t =>
      t.env.calls == [.onDecoded 0 0 []] && (t.env.lanes[2]?.map (·.waiting.length)) == some 1 := by decide

/-! ### One step -/

/-- A byte offered in the coming cycle is taken at its edge (R13, R110). -/
theorem test_step_byte : passes (step (coming (some 0x55) false false [] State.reset)) fun t =>
    t.dec.st == .s2 && t.tick == 1 && t.env.sched == [] := by decide
/-- P3: a request raised in the coming cycle is granted at its edge. -/
theorem test_step_request :
    passes (step (coming none true true [.request 0 [0x02, 0x00]] (lines true true State.reset))) fun t =>
      t.arb.st == .send && t.arb.gnt == 0 && t.arb.len == 2 := by decide
/-- A table word placed at reset runs its row in the next step. -/
theorem test_step_table_word : (passes (step (State.reset.withFetchWord 8 0x0C)) fun t => t.arb.st == .send) ∧
    passes (step (State.reset.withFetchWord 16 0x2AA)) fun t => t.dec.st == .s1 := by decide
/-- R206: the channel opens, the battery poll and a velocity activity with target (0, 0) start. -/
theorem test_step_open : passes (step (coming none true true [] State.reset)) fun t =>
    t.env.gen == 1 && t.env.batt == some (.wait 1000)
      && t.env.vels == [{ gen := 1, left := 0, right := 0, mult := 1, phase := .wait 100 }] := by decide

/-! ### Witnesses: for each statement with hypotheses, states and operands that meet them together, a clause at a time -/

theorem test_witness_FeedBeatSelectsOneRow : State.reset.inp.rxValid = false ∧
    (State.reset.sample (State.reset.beat (some 0x55))).inp.rxValid = true := by decide
/-- The bytes next to 0x55 are discarded. -/
theorem test_witness_SeekFirstMagicRows : (inState .s1).dec.st = .s1 ∧ (0x54 : Byte) ≠ 0x55 ∧ (0x56 : Byte) ≠ 0x55 := by
  decide
theorem test_witness_SeekSecondMagicRows : (inState .s2).dec.st = .s2 ∧ (0xA9 : Byte) ≠ 0xAA ∧ (0xAB : Byte) ≠ 0xAA := by
  decide
theorem test_witness_LengthAcceptRows : (inState .rl).dec.st = .rl := by decide
/-- The lengths next to the accepted ones. -/
theorem test_witness_LengthRejectRow : (inState .rl).dec.st = .rl ∧
    [0x01, 0x03, 0x08, 0x0A].all fun b : Byte => b != 0x02 && b != 0x09 := by decide
/-- The first and the last cursor before the checksum slot of each length. -/
theorem test_witness_FillStoreRow :
    [filling 0x02 3, filling 0x02 5, filling 0x09 3, filling 0x09 12].all fun s =>
      decide (s.dec.st = .fill ∧ s.dec.cur.toNat + 1 < s.dec.dsize ∧ s.dec.cur.toNat < 14) := by decide
theorem test_witness_FillCheckOkRow :
    (fb10.dec.st = .fill ∧ fb10.dec.cur.toNat + 1 = fb10.dec.dsize ∧ fb10.dec.dsize ≤ 14 ∧
      0x8B = xorReduce (fb10.bufSlice 0 (fb10.dec.dsize - 1))) ∧
    fv3.dec.st = .fill ∧ fv3.dec.cur.toNat + 1 = fv3.dec.dsize ∧ fv3.dec.dsize ≤ 14 ∧
      0xF6 = xorReduce (fv3.bufSlice 0 (fv3.dec.dsize - 1)) := by decide
theorem test_witness_FillCheckBadRow :
    (fb10.dec.st = .fill ∧ fb10.dec.cur.toNat + 1 = fb10.dec.dsize ∧ fb10.dec.dsize ≤ 14 ∧
      0x8A ≠ xorReduce (fb10.bufSlice 0 (fb10.dec.dsize - 1))) ∧
    fv3.dec.st = .fill ∧ fv3.dec.cur.toNat + 1 = fv3.dec.dsize ∧ fv3.dec.dsize ≤ 14 ∧
      0xF7 ≠ xorReduce (fv3.bufSlice 0 (fv3.dec.dsize - 1)) := by decide
/-- Both sides of the equivalence occur. -/
theorem test_witness_AcceptedIffXorZero : fb10.dec.st = .fill ∧ fb10.dec.cur.toNat + 1 = fb10.dec.dsize ∧
    xorReduce (fb10.bufSlice 0 (fb10.dec.dsize - 1) ++ [0x8B]) = 0x00 ∧
    xorReduce (fb10.bufSlice 0 (fb10.dec.dsize - 1) ++ [0x8A]) ≠ 0x00 := by decide
/-- The decoder's invariant in FILL, at the checksum slot. -/
theorem test_witness_DecoderNeverStuck : Dec.Inv fb10.dec ∧ (List.replicate 13 (0x55 : Byte)).length = 13 := by
  refine ⟨⟨by decide, by decide, by decide, fun _ k hk => ?_, by decide⟩, by decide⟩
  have hk : k < 6 := hk
  interval_cases k <;> exact ⟨_, rfl⟩
theorem test_witness_EncodeDecodeRoundTrip : State.reset.dec.st = .s1 ∧ [(0x64 : Byte)].length = 1 ∧
    (List.replicate 8 (0 : Byte)).length = 8 := by decide
/-- The right checksum and a wrong one. -/
theorem test_witness_FrameLen2Received : State.reset.dec.st = .s1 ∧
    0x8B = xorReduce [0x55, 0xAA, 0x02, 0x10, 0x02, 0x64] ∧
    0x8A ≠ xorReduce [0x55, 0xAA, 0x02, 0x10, 0x02, 0x64] := by decide
theorem test_witness_FrameLen9Received : State.reset.dec.st = .s1 ∧
    0xF6 = xorReduce [0x55, 0xAA, 0x09, 0x03, 0x01, 0x00, 0x05, 0x00, 0x07, 0x00, 0x00, 0x00, 0x00] ∧
    0xF7 ≠ xorReduce [0x55, 0xAA, 0x09, 0x03, 0x01, 0x00, 0x05, 0x00, 0x07, 0x00, 0x00, 0x00, 0x00] := by decide
theorem test_witness_FramesTakenAnywhere : Dec.Inv fb10.dec ∧ fb10.dec.st = .fill :=
  ⟨test_witness_DecoderNeverStuck.1, rfl⟩
theorem test_witness_RecoveryAfterAnomaly : State.reset.dec.st = .s1 ∧ [(0x64 : Byte)].length = 1 ∧
    (List.replicate 8 (0 : Byte)).length = 8 ∧ (0x01 : Byte) ≠ 0 ∧ (0x07 : Byte) ≠ 0x02 ∧ (0x07 : Byte) ≠ 0x09 ∧
    (passes (feed 0x8A fb10) fun t => t.ev.valid) ∧ (inState .rl).dec.st = .rl ∧
    passes (feed 0x07 (inState .rl)) fun _ => true := by decide
/-- DV-S2-4: FB10 after an extra 0x55; the clause before it takes any bytes, such as a whole frame. -/
theorem test_witness_NoRescanAfterDiscard : State.reset.dec.st = .s1 ∧
    ∀ b ∈ [0x02, 0x10, 0x02, 0x64, (0x8B : Byte)], b ≠ 0x55 := by decide
theorem test_witness_EventsSevenBytesApart : (passes (feed 0x8B fb10) fun t => t.ev.valid) ∧
    State.reset.dec.st = .s1 ∧ [0x55, 0xAA, 0x02, 0x10, 0x02, (0x64 : Byte)].length ≤ 6 := by decide
/-- The first and the last position of a frame of 7 bytes, and the last of one of 14; the first and the last bit. -/
theorem test_witness_SingleBitErrorDetected : State.reset.dec.st = .s1 ∧
    ([(0x64 : Byte)].length = 1 ∧ 3 < [(0x64 : Byte)].length + 6 ∧ 6 < [(0x64 : Byte)].length + 6) ∧
    ((List.replicate 8 (0 : Byte)).length = 8 ∧ 13 < (List.replicate 8 (0 : Byte)).length + 6) ∧ 0 < 8 ∧ 7 < 8 ∧
    0 < 2 ∧ 1 < 2 := by decide
/-- DV-F-11, and the second magic byte with its bit 0 flipped: the bytes after it hold no header. -/
theorem test_witness_SingleBitErrorDetected_magic :
    (∀ i < 7, 0 < i → ([0x54, 0xAA, 0x02, 0x10, 0x02, 0x64, 0x8B] : List Byte)[i]? = some 0x55 →
      ([0x54, 0xAA, 0x02, 0x10, 0x02, 0x64, 0x8B] : List Byte)[i + 1]? ≠ some 0xAA) ∧
    ∀ i < 7, 1 < i → ([0x55, 0xAB, 0x02, 0x10, 0x02, 0x64, 0x8B] : List Byte)[i]? = some 0x55 →
      ([0x55, 0xAB, 0x02, 0x10, 0x02, 0x64, 0x8B] : List Byte)[i + 1]? ≠ some 0xAA := by decide
theorem test_witness_EncodeFrameClosedForm : ([] : List Byte).length < 256 ∧ [0x02, (0x64 : Byte)].length < 256 := by
  decide
/-- The cursor at 0, 1, 2, 3, at the first and the last body byte and at the checksum byte; and outside SEND. -/
theorem test_witness_FrameByteRow :
    ((sending 0 0 0).arb.st = .send ∧ (sending 0 0 0).inp.rst = false ∧ (sending 0 0 0).arb.cur = 0) ∧
    (sending 0 0 1).arb.cur = 1 ∧ (sending 0 0 2).arb.cur = 2 ∧ (sending 0 0 3).arb.cur = 3 ∧
    (4 ≤ (sending 0 0 4).arb.cur.toNat ∧ (sending 0 0 4).arb.cur.toNat ≤ (sending 0 0 4).arb.len.toNat + 3) ∧
    (4 ≤ (sending 0 0 5).arb.cur.toNat ∧ (sending 0 0 5).arb.cur.toNat ≤ (sending 0 0 5).arb.len.toNat + 3) ∧
    (sending 0 0 6).arb.cur.toNat = (sending 0 0 6).arb.len.toNat + 4 ∧ State.reset.arb.st ≠ .send := by decide
/-- The arbiter's invariant in a frame: before the first byte, and at the checksum byte. -/
theorem test_arb_inv_start : Arb.Inv (sending 0 0 0).cfg (sending 0 0 0).arb :=
  ⟨by decide, by decide, by decide, by decide, rfl, by decide, by decide, by decide, by decide⟩
theorem test_arb_inv_last : Arb.Inv (sending 0 0xFF 6).cfg (sending 0 0xFF 6).arb :=
  ⟨by decide, by decide, by decide, by decide, rfl, by decide, by decide, by decide, by decide⟩
theorem test_witness_OfferedByteIsFrameByte :
    (Arb.Inv (sending 0 0 0).cfg (sending 0 0 0).arb ∧ (sending 0 0 0).arb.st = .send) ∧
    Arb.Inv (sending 0 0xFF 6).cfg (sending 0 0xFF 6).arb ∧ (sending 0 0xFF 6).arb.st = .send :=
  ⟨⟨test_arb_inv_start, rfl⟩, test_arb_inv_last, rfl⟩
theorem test_witness_PendingPorts : (requesting 1 [0x02] State.reset).pending = [1] ∧ State.reset.pending = [] ∧
    (sending 0 0 0).arb.st = .send ∧ (waiting 5).arb.st = .gap ∧
    passes (runRow (waiting 5).arbRow (waiting 5)) fun _ => true := by decide
theorem test_witness_IdleWaitRow : State.reset.arb.st = .idle ∧ State.reset.pending = [] := by decide
theorem test_witness_ClosedNoopRow : (requesting 1 [0x02] State.reset).arb.st = .idle ∧
    (requesting 1 [0x02] State.reset).pending ≠ [] ∧ (requesting 1 [0x02] State.reset).inp.txOpen = false := by decide
theorem test_witness_GrantRow : (lines true true (requesting 1 [0x02] State.reset)).arb.st = .idle ∧
    (lines true true (requesting 1 [0x02] State.reset)).pending ≠ [] ∧
    (lines true true (requesting 1 [0x02] State.reset)).inp.txOpen = true ∧
    (lines true true (requesting 1 [0x02] State.reset)).requestsLegal = true := by decide
theorem test_witness_SendStallRow : (lines true false (sending 0 0 3)).arb.st = .send ∧
    (lines true false (sending 0 0 3)).inp.txOpen = true ∧ (lines true false (sending 0 0 3)).inp.txReady = false := by
  decide
/-- The first byte and the last byte before the checksum. -/
theorem test_witness_SendByteRow : [lines true true (sending 0 0 0), lines true true (sending 0 0 5)].all fun s =>
    decide (s.arb.st = .send ∧ s.inp.txOpen = true ∧ s.inp.txReady = true ∧ s.arb.cur.toNat < s.arb.len.toNat + 4) := by
  decide
/-- With a gap and without. -/
theorem test_witness_SendLastRow :
    ([lines true true (sending 0xFF 0 6), noGap (lines true true (sending 0xFF 0 6))].all fun s =>
      decide (s.arb.st = .send ∧ s.inp.txOpen = true ∧ s.inp.txReady = true ∧
        s.arb.cur.toNat = s.arb.len.toNat + 4 ∧ s.arb.gnt < s.arb.outs.length)) ∧
    (sending 0xFF 0 6).cfg.gap ≠ 0 ∧ (noGap (sending 0xFF 0 6)).cfg.gap = 0 := by decide
theorem test_witness_SendAbortRow : (lines false true (sending 7 0 4)).arb.st = .send ∧
    (lines false true (sending 7 0 4)).inp.txOpen = false ∧
    (lines false true (sending 7 0 4)).arb.gnt < (lines false true (sending 7 0 4)).arb.outs.length := by decide
/-- The last edge that counts, and a whole gap. -/
theorem test_witness_GapCountRow : (waiting 2).arb.st = .gap ∧ (waiting 2).arb.gap ≠ 1 ∧ (waiting 20).arb.gap ≠ 1 := by
  decide
/-- The last cycle; a whole gap of `P_GAP` edges; the longest gap. -/
theorem test_witness_GapDoneRow : ([waiting 1, waiting 20, waiting 0xFFFF].all fun s =>
      decide (s.arb.st = .gap ∧ s.arb.gnt < s.arb.outs.length)) ∧
    ((waiting 20).arb.gap = (waiting 20).cfg.gap ∧ (waiting 20).cfg.gap ≠ 0) ∧
    (waiting 1).arb.gap = 1 ∧ (waiting 1).arb.gap.toNat = 0 + 1 ∧ (waiting 20).arb.gap.toNat = 19 + 1 ∧
    (waiting 0xFFFF).arb.gap.toNat = 65534 + 1 := by decide
theorem test_witness_BadArbiterStateFaults : (State.reset.setArb { State.reset.arb with st := .bad }).arb.st = .bad := rfl
/-- A transfer, a stall and a gap cycle. -/
theorem test_witness_GrantIsExclusive : [lines true true (sending 0 0 0), lines true false (sending 0 0 0), waiting 5].all
    fun s => !s.inp.rst && (s.arb.st == .send || s.arb.st == .gap) && passes (clockEdge s) fun _ => true := by decide
/-- A checksum byte, another byte, and a reset. -/
theorem test_witness_SequenceCountsSends : [lines true true (sending 0xFF 0 6), lines true true (sending 0 0 0),
    (sending 3 0 0).setInp { State.reset.inp with rst := true }].all fun s => passes (clockEdge s) fun _ => true := by
  decide
/-- With a gap and without. -/
theorem test_witness_GrantedFrameIsSentWhole :
    Arb.Inv (sending 0 0 0).cfg (sending 0 0 0).arb ∧
    [lines true true (sending 0 0 0), noGap (lines true true (sending 0 0 0))].all fun s =>
      s.cfg.legal && s.arb.st == .send && s.arb.cur == 0 && s.inp.txOpen && s.inp.txReady :=
  ⟨test_arb_inv_start, by decide⟩
theorem test_witness_StallMayLastForever : (lines true false (sending 0 0 3)).arb.st = .send ∧
    (lines true false (sending 0 0 3)).inp.txOpen = true ∧ (lines true false (sending 0 0 3)).inp.txReady = false := by
  decide
theorem test_witness_ResetHasPriority : ((sending 3 0 0).setInp { State.reset.inp with rst := true }).inp.rst = true := rfl

/-- The decoder at a checksum slot, the arbiter in a frame, one cycle to come. -/
def busy : State := coming (some 0x8B) true true [] (lines true true ((sending 0 0x55 1).setDec fb10.dec))

theorem test_inv_busy : State.Inv busy where
  cfg := by decide
  dec := test_witness_DecoderNeverStuck.1
  ev := ⟨by decide, by decide, by decide, by decide, rfl⟩
  arb := ⟨by decide, by decide, by decide, by decide, rfl, by decide, by decide, by decide, by decide⟩
  inp := ⟨by decide, by decide⟩
  env := ⟨by decide, by decide, by decide⟩
  unread := by decide

theorem test_witness_InvariantKeptByStep : State.Inv busy ∧ ∃ t, step busy = .next t := ⟨test_inv_busy, _, rfl⟩
theorem test_witness_StepNeverFaults : State.Inv busy := test_inv_busy
theorem test_witness_RowsKeepArraysCanonical : State.arraysCanonical busy ∧
    ∃ t, Runs (.decFillCheckOk 0x8B) busy t := ⟨⟨by decide, by decide, by decide⟩, _, rfl⟩
/-- The third clause on a block outside SEND; the first on a cycle with a byte and a frame being sent; the second on its
transmit port; the fourth at reset. -/
theorem test_witness_StepRunsDecodedRows : State.reset.arb.st ≠ .send ∧
    (∃ u v w x, hostPhase busy = .next u ∧ u.inp.rst = false ∧ u.requestsLegal = true ∧ driveTxPort u = .next v ∧
      v.decRow = .ok (.decFillCheckOk 0x8B) ∧ exec (.decFillCheckOk 0x8B) v = .next w ∧
      w.arbRow = .ok .arbSendByte ∧ exec .arbSendByte w = .next x) ∧
    (busy.arb.st = .send ∧ ∃ v w, exec .encode busy = .next v ∧ exec .frameByte v = .next w) ∧
    ∃ u x, hostPhase (busy.setEnv { busy.env with sched := [{ busy.beat none with rst := true }] }) = .next u ∧
      u.inp.rst = true ∧ exec .reset u = .next x :=
  ⟨by decide, ⟨_, _, _, _, rfl, rfl, rfl, rfl, rfl, rfl, rfl, rfl⟩, ⟨rfl, _, _, rfl, rfl⟩, _, _, rfl, rfl, rfl⟩
/-- Two states with one decoder and two arbiters, and two with one arbiter and two decoders. -/
theorem test_witness_DecoderAndArbiterIndependent :
    (∃ t t', clockEdge (lines true true (sending 0 0 0)) = .next t ∧ clockEdge State.reset = .next t' ∧
      (lines true true (sending 0 0 0)).dec = State.reset.dec) ∧
    ∃ t t', clockEdge fb10 = .next t ∧ clockEdge State.reset = .next t' ∧ fb10.arb = State.reset.arb :=
  ⟨⟨_, _, rfl, rfl, rfl⟩, _, _, rfl, rfl, rfl⟩
theorem test_witness_SentIdRows : ∃ l, State.reset.env.lanes[0]? = some l ∧ State.reset.env.lanes[1]? = some l ∧
    State.reset.env.lanes[2]? = some l := ⟨_, rfl, rfl, rfl⟩
theorem test_witness_ReceivedIdRows : ∃ l, State.reset.env.lanes[2]? = some l := ⟨_, rfl⟩
/-- FB10's Command in the registers, left unread by the cycle it came in. -/
def leftUnread : State := ((State.reset.emit .ready 0x02 0x10 [0x64]).noEmit).setUnread true

/-- A Command, a mismatch, a Command left unread, and a cycle without an event; none of their edges overwrites the
registers. The same Command in the last cycle in which it can be read. -/
theorem test_witness_ConsumerTakesEvent :
    ((State.reset.emit .ready 0x02 0x10 [0x64]).ev.valid = true ∧ leftUnread.ev.kind ≠ .noEvent ∧
      leftUnread.env.unread = true ∧ State.reset.ev.valid = false ∧ State.reset.env.unread = false) ∧
    Ev.Inv leftUnread.ev ∧ Ev.Inv State.reset.ev ∧ leftUnread.mustRead = false ∧ 3 ≤ leftUnread.env.lanes.length ∧
    (leftUnread.setInp { State.reset.inp with rst := true }).mustRead = true ∧
    ((leftUnread.setDec fb10.dec).setInp { State.reset.inp with rxValid := true }).mustRead = true ∧
    passes (clockEdge leftUnread) fun _ => true :=
  ⟨by decide, ⟨by decide, by decide, by decide, by decide, rfl⟩, ⟨by decide, by decide, by decide, by decide, rfl⟩,
    by decide⟩
/-- R195: an event is read once, at once or later. -/
theorem test_consumer_late : (passes (consume false leftUnread) fun t =>
      t.env.calls == [.onDecoded 0x02 0x10 [0x64]] && !t.env.unread) ∧
    (passes (consume true leftUnread) fun t => t.env.calls == [] && t.env.unread) ∧
    passes (consume true (leftUnread.setInp { State.reset.inp with rst := true })) fun t =>
      t.env.calls == [.onDecoded 0x02 0x10 [0x64]] && !t.env.unread := by decide
/-- R194: in its done cycle a port goes idle or carries the next request. -/
theorem test_requester_hold :
    let s := (requesting 0 [0x05] (lines true true (State.reset.setArb (State.reset.arb.complete 0 .ok)))).setEnv
      { State.reset.env with lanes := State.reset.env.lanes.set 0 ⟨.gui, [⟨.gui, [0x02, 0x00]⟩], none⟩ }
    (passes (andThen (returnPort 0 s) (raisePort [0] 0)) fun t =>
      (t.inp.req[0]?.map (·.valid)) == some false && (t.env.lanes[0]?.map (·.waiting.length)) == some 1) ∧
    passes (andThen (returnPort 0 s) (raisePort [] 0)) fun t =>
      t.inp.req[0]? == some { valid := true, len := 2, data := [0x02, 0x00] } := by decide

/-- A velocity activity of generation 1. -/
def activity (p : Phase) : Velocity := { gen := 1, left := 5, right := 7, mult := 1, phase := p }

/-- The done cycle of a port whose request is the sender's. -/
def returning (port : Nat) (who : Sender) : State :=
  (requesting port [0x02, 0x00] (State.reset.setArb (State.reset.arb.complete port .ok))).setEnv
    { State.reset.env with lanes := State.reset.env.lanes.set port ⟨who, [], none⟩, batt := some .sending }

/-- Port 1 in the done cycle of generation 1's send, and port 0 in that of the battery query. -/
theorem test_witness_returning : (∃ l p o, (returning 1 (.velocity 1)).env.lanes[1]? = some l ∧
      l.owner = .velocity (activity .sending).gen ∧ (returning 1 (.velocity 1)).inp.req[1]? = some p ∧ p.valid = true ∧
      (returning 1 (.velocity 1)).arb.outs[1]? = some o ∧ o.done = true ∧ (activity .sending).phase = .sending) ∧
    ∃ l p o, (returning 0 .battery).env.batt = some .sending ∧ (returning 0 .battery).env.lanes[0]? = some l ∧
      l.owner = .battery ∧ (returning 0 .battery).inp.req[0]? = some p ∧ p.valid = true ∧
      (returning 0 .battery).arb.outs[0]? = some o ∧ o.done = true :=
  ⟨⟨_, _, _, rfl, rfl, rfl, rfl, rfl, rfl, rfl⟩, _, _, _, rfl, rfl, rfl, rfl, rfl, rfl, rfl⟩

/-- A superseded one, a current one, a wait and its end; its send and its return are `test_witness_returning`. -/
theorem test_witness_VelocityLoop : ((activity .check).phase = .check ∧ (activity .check).gen ≠ State.reset.env.gen) ∧
    ((activity .check).gen = (lines true true (State.reset.setVelocity 5 7)).env.gen ∧
      (lines true true (State.reset.setVelocity 5 7)).inp.txOpen = true) ∧
    (activity (.wait 2)).phase = .wait (0 + 2) ∧ (activity (.wait 1)).phase = .wait 1 ∧
    ∃ l, State.reset.env.lanes[1]? = some l := ⟨by decide, by decide, rfl, rfl, _, rfl⟩
theorem test_witness_BatteryLoop : (State.reset.startBattery.env.batt = some .check ∧
      State.reset.startBattery.inp.txOpen = false) ∧
    (lines true true State.reset.startBattery).inp.txOpen = true ∧
    (State.reset.setEnv { State.reset.env with batt := some (.wait 2) }).env.batt = some (.wait (0 + 2)) ∧
    (State.reset.setEnv { State.reset.env with batt := some (.wait 1) }).env.batt = some (.wait 1) ∧
    ∃ l, State.reset.env.lanes[0]? = some l := ⟨by decide, by decide, rfl, rfl, _, rfl⟩
/-- A request on port 1 before its done cycle, and an open, ready cycle to come. -/
def held : State := coming none true true [] (lines true true (requesting 1 [0x02] State.reset))

theorem test_witness_RequestsAreHeld : ∃ t r, hostPhase held = .next t ∧ held.inp.req[1]? = some r ∧ r.valid = true ∧
    ∀ o, held.arb.outs[1]? = some o → o.done = false := by
  refine ⟨_, _, rfl, rfl, rfl, ?_⟩
  rintro o ⟨rfl⟩
  rfl
/-- Operands at the ends of their ranges. -/
theorem test_witness_DecodeOfEncode : (Instr.decSeek1Discard 0xFF).wellFormed = true ∧
    (Instr.decLenReject 0x0A).wellFormed = true ∧ (Instr.idVelocity 0xFFFF 0x8000).wellFormed = true ∧
    (Instr.idClearEncoder []).wellFormed = true := by decide

end Sys2Proof.Tests
end

/-! PROOFS. The edge: what the transmit port's rows, the decoder's rows and the arbiter's rows change (R13, R16, R41), how a
step is composed of them, and why decoder and arbiter do not depend on each other. -/

namespace Sys2Proof.Machine

/-! ### Sequencing -/

theorem andThen_ite (c : Prop) [Decidable c] (a b : Result) (f : State → Result) :
    andThen (if c then a else b) f = if c then andThen a f else andThen b f :=
  apply_ite (andThen · f) c a b

/-! ### The transmit port in a cycle (R41, R164) -/

/-- The two low bits of AW are the arbiter's state (R91), so in SEND it selects an operation of SEND's mask and pattern. -/
theorem decodeAwOp_of_send (op : Instr) (s : State) (h : s.arb.st = .send) :
    decodeAwOp op 0x03 0x01 s.arbWord = .ok op := by
  have bits : ∀ g e r o p : Bool, rowMatches (BitVec.ofBool g ++ BitVec.ofBool e ++ BitVec.ofBool r ++ BitVec.ofBool o
      ++ BitVec.ofBool p ++ ArbSt.code .send) 0x03 0x01 = true := by decide
  refine if_pos ?_
  rw [State.arbWord, h]
  exact bits _ _ _ _ _

/-- In SEND AW selects the rows ENCODE and FRAME_BYTE, which drive the port. -/
theorem driveTxPort_of_send (s : State) (h : s.arb.st = .send) :
    driveTxPort s = andThen (exec .encode s) (exec .frameByte) := by
  rw [driveTxPort, if_pos (beq_iff_eq.mpr h), decodeAwOp_of_send .encode s h]
  exact congrArg (runRow · _) (decodeAwOp_of_send .frameByte _ h)

theorem driveTxPort_of_not_send (s : State) (h : s.arb.st ≠ .send) : driveTxPort s = .next s.idleTx := by
  simp [driveTxPort, h]

/-- The rows of the transmit port change its lines alone. -/
theorem driveTxPort_onlyTxPort (s t : State) (h : driveTxPort s = .next t) : OnlyTxPort s t := by
  by_cases hs : s.arb.st = .send
  · rw [driveTxPort_of_send s hs] at h
    cases h
    exact ⟨rfl, rfl, rfl, rfl, rfl, rfl, rfl⟩
  · rw [driveTxPort_of_not_send s hs] at h
    cases h
    exact ⟨rfl, rfl, rfl, rfl, rfl, rfl, rfl⟩

/-! ### The edge and the step (R13, R224, R250) -/

theorem clockEdge_of_rst (s : State) (h : s.inp.rst = true) : clockEdge s = exec .reset s := by
  simp [clockEdge, decodeRst, h]

theorem clockEdge_of_not_rst (s : State) (h : s.inp.rst = false) :
    clockEdge s = if s.requestsLegal then runEdge s else .refused .requestTooLong := by
  simp [clockEdge, decodeRst, h]

theorem runEdge_of_clockEdge {s t : State} (hrst : s.inp.rst = false) (h : clockEdge s = .next t) :
    runEdge s = .next t := by
  rw [clockEdge_of_not_rst s hrst] at h
  split at h
  · exact h
  · cases h

theorem runEdge_eq_next {s t : State} :
    runEdge s = .next t ↔ ∃ v, driveTxPort s = .next v ∧
      ∃ w, runRow v.decRow v = .next w ∧ runRow w.arbRow w = .next t := by
  simp only [runEdge, andThen_eq_next]

/-- A row runs exactly where its word decodes to one. -/
theorem runRow_eq_next {row : Except Reject Instr} {s t : State} :
    runRow row s = .next t ↔ ∃ i, row = .ok i ∧ exec i s = .next t := by
  cases row <;> simp [runRow]

theorem step_of_phases {s u x : State} (hu : hostPhase s = .next u) (hx : clockEdge u = .next x) :
    step s = .next x.advance := by
  simp [step, cycle, hu, hx]

/-- Settles O49: each clause composes the phases of a cycle in their order. -/
theorem stepRunsDecodedRows : Obligations.StepRunsDecodedRows := by
  refine ⟨?rows, ?sending, ?silent, ?reset⟩
  case rows =>
    intro s u v w x i j hu hrst hlegal hv hi hw hj hx
    refine step_of_phases hu ?_
    rw [clockEdge_of_not_rst u hrst, if_pos hlegal]
    exact runEdge_eq_next.mpr ⟨v, hv, w, runRow_eq_next.mpr ⟨i, hi, hw⟩, runRow_eq_next.mpr ⟨j, hj, hx⟩⟩
  case sending =>
    intro u v w hs hv hw
    rw [driveTxPort_of_send u hs]
    exact andThen_eq_next.mpr ⟨v, hv, hw⟩
  case silent =>
    intro u hs
    have hw := driveTxPort_of_not_send u hs
    exact ⟨u.idleTx, hw, rfl, rfl, driveTxPort_onlyTxPort u _ hw⟩
  case reset =>
    intro s u x hu hrst hx
    exact step_of_phases hu ((clockEdge_of_rst u hrst).trans hx)

/-! ### The rows an edge can select (R90, R91) -/

/-- The rows of the decoder's table (R90). -/
inductive DecoderRow : Instr → Prop
  | idle : DecoderRow .decIdle
  | seek1Magic : DecoderRow .decSeek1Magic
  | seek1Discard (b : Byte) : DecoderRow (.decSeek1Discard b)
  | seek2Magic : DecoderRow .decSeek2Magic
  | seek2Discard (b : Byte) : DecoderRow (.decSeek2Discard b)
  | lenAccept2 : DecoderRow .decLenAccept2
  | lenAccept9 : DecoderRow .decLenAccept9
  | lenReject (b : Byte) : DecoderRow (.decLenReject b)
  | fillStore (b : Byte) : DecoderRow (.decFillStore b)
  | fillCheckOk (b : Byte) : DecoderRow (.decFillCheckOk b)
  | fillCheckBad (b : Byte) : DecoderRow (.decFillCheckBad b)

/-- The rows of the arbiter's table (R91). -/
inductive ArbiterRow : Instr → Prop
  | idleWait : ArbiterRow .arbIdleWait
  | closedNoop : ArbiterRow .arbClosedNoop
  | grant : ArbiterRow .arbGrant
  | sendAbort : ArbiterRow .arbSendAbort
  | sendStall : ArbiterRow .arbSendStall
  | sendByte : ArbiterRow .arbSendByte
  | sendLast : ArbiterRow .arbSendLast
  | gapCount : ArbiterRow .arbGapCount
  | gapDone : ArbiterRow .arbGapDone
  | badState : ArbiterRow .arbBadState

theorem decodeDw_decoderRow {csumOk : Bool} {w : BitVec 11} {i : Instr} (h : decodeDw csumOk w = .ok i) :
    DecoderRow i := by
  unfold decodeDw at h
  repeat' split at h
  all_goals cases h
  all_goals constructor

theorem decodeAw_arbiterRow {w : BitVec 7} {i : Instr} (h : decodeAw w = .ok i) : ArbiterRow i := by
  unfold decodeAw at h
  repeat' split at h
  all_goals cases h
  all_goals constructor

theorem State.decRow_decoderRow {s : State} {i : Instr} (h : s.decRow = .ok i) : DecoderRow i := by
  unfold State.decRow at h
  split at h
  · exact decodeDw_decoderRow h
  · cases h
    exact .idle

/-! ### What decoder and arbiter read (R16)

Each of the two gets a view: the state with everything it may not read overwritten by its value at reset. A row that runs on
the view as on the state cannot have read what the view hides. -/

/-- What the decoder reads: its registers, the event registers, the receive port and the tick of the free values. -/
def State.decoderView (s : State) : State :=
  { State.reset with
    dec := s.dec, ev := s.ev, tick := s.tick
    inp := { State.reset.inp with rxValid := s.inp.rxValid, rxData := s.inp.rxData } }

/-- What the arbiter reads: the parameters, its registers, the request ports, the transmit port's two inputs, the bytes on
the wire and the tick of the free values. -/
def State.arbiterView (s : State) : State :=
  { State.reset with
    cfg := s.cfg, arb := s.arb, tick := s.tick
    inp := { State.reset.inp with txReady := s.inp.txReady, txOpen := s.inp.txOpen, req := s.inp.req }
    env := { State.reset.env with wire := s.env.wire } }

theorem OnlyTxPort.decoderView_eq {s t : State} (h : OnlyTxPort s t) : t.decoderView = s.decoderView := by
  obtain ⟨-, hdec, hev, -, hinp, -, htick⟩ := h
  simp [State.decoderView, hdec, hev, hinp, htick]

theorem OnlyTxPort.arbiterView_eq {s t : State} (h : OnlyTxPort s t) : t.arbiterView = s.arbiterView := by
  obtain ⟨hcfg, -, -, harb, hinp, henv, htick⟩ := h
  simp [State.arbiterView, hcfg, harb, hinp, henv, htick]

theorem OnlyArbiter.decoderView_eq {s t : State} (h : OnlyArbiter s t) : t.decoderView = s.decoderView := by
  obtain ⟨-, hdec, hev, -, hinp, -, htick⟩ := h
  simp [State.decoderView, hdec, hev, hinp, htick]

theorem OnlyDecoder.arbiterView_eq {s t : State} (h : OnlyDecoder s t) : t.arbiterView = s.arbiterView := by
  obtain ⟨hcfg, harb, -, hinp, henv, htick⟩ := h
  simp [State.arbiterView, hcfg, harb, hinp, henv, htick]

/-! ### The decoder's rows -/

/-- R16: a decoder row changes decoder and event registers alone. -/
theorem exec_decoderRow_onlyDecoder {i : Instr} (hi : DecoderRow i) {s t : State} (h : exec i s = .next t) :
    OnlyDecoder s t := by
  cases hi
  case fillStore b =>
    simp only [exec, execDecFillStore] at h
    split at h <;> cases h
    exact ⟨rfl, rfl, rfl, rfl, rfl, rfl⟩
  case fillCheckOk b =>
    simp only [exec, execDecFillCheckOk] at h
    split at h
    · split at h <;> cases h <;> exact ⟨rfl, rfl, rfl, rfl, rfl, rfl⟩
    · cases h
  case fillCheckBad b =>
    simp only [exec, execDecFillCheckBad] at h
    split at h
    · split at h <;> cases h <;> exact ⟨rfl, rfl, rfl, rfl, rfl, rfl⟩
    · cases h
  all_goals
    cases h
    exact ⟨rfl, rfl, rfl, rfl, rfl, rfl⟩

/-- R16: a decoder row runs on the decoder's view as on the state, so it reads nothing else. -/
theorem exec_decoderRow_decoderView {i : Instr} (hi : DecoderRow i) (s : State) :
    exec i s.decoderView = andThen (exec i s) fun t => .next t.decoderView := by
  cases hi
  case fillStore b =>
    simp only [exec, execDecFillStore, andThen_ite]
    rfl
  case fillCheckOk b =>
    simp only [exec, execDecFillCheckOk, andThen_ite]
    rfl
  case fillCheckBad b =>
    simp only [exec, execDecFillCheckBad, andThen_ite]
    rfl
  all_goals rfl

/-! ### The arbiter's rows -/

@[simp] theorem State.arbiterView_arbChoice (s : State) : s.arbiterView.arbChoice = s.arbChoice := rfl
@[simp] theorem State.arbiterView_req (s : State) : s.arbiterView.inp.req = s.inp.req := rfl

theorem State.completeSend_onlyArbiter {s t : State} {g : Nat} {c : SendStatus} (h : s.completeSend g c = .next t) :
    OnlyArbiter s t := by
  obtain ⟨-, rfl⟩ := s.completeSend_eq_next t g c h
  exact ⟨rfl, rfl, rfl, rfl, rfl, rfl, rfl⟩

theorem State.completeSend_arbiterView (s : State) (g : Nat) (c : SendStatus) :
    s.arbiterView.completeSend g c = andThen (s.completeSend g c) fun t => .next t.arbiterView := by
  simp only [State.completeSend, State.done, andThen_ite]
  rfl

/-- R16: an arbiter row changes arbiter registers and the bytes on the wire alone. -/
theorem exec_arbiterRow_onlyArbiter {i : Instr} (hi : ArbiterRow i) {s t : State} (h : exec i s = .next t) :
    OnlyArbiter s t := by
  cases hi
  case closedNoop =>
    simp only [exec, execArbClosedNoop] at h
    split at h
    · cases h
    · exact State.completeSend_onlyArbiter h
  case grant =>
    simp only [exec, execArbGrant] at h
    repeat' split at h
    all_goals cases h
    exact ⟨rfl, rfl, rfl, rfl, rfl, rfl, rfl⟩
  case sendLast =>
    simp only [exec, execArbSendLast] at h
    split at h
    · obtain ⟨-, rfl⟩ := State.completeSend_eq_next _ _ _ _ h
      exact ⟨rfl, rfl, rfl, rfl, rfl, rfl, rfl⟩
    · cases h
      exact ⟨rfl, rfl, rfl, rfl, rfl, rfl, rfl⟩
  case sendAbort => exact State.completeSend_onlyArbiter h
  case gapDone => exact State.completeSend_onlyArbiter h
  case badState => cases h
  all_goals
    cases h
    exact ⟨rfl, rfl, rfl, rfl, rfl, rfl, rfl⟩

/-- R16: an arbiter row runs on the arbiter's view as on the state, so it reads nothing else. -/
theorem exec_arbiterRow_arbiterView {i : Instr} (hi : ArbiterRow i) (s : State) :
    exec i s.arbiterView = andThen (exec i s) fun t => .next t.arbiterView := by
  cases hi
  case closedNoop =>
    simp only [exec, execArbClosedNoop, State.arbiterView_arbChoice]
    cases s.arbChoice with
    | none => rfl
    | some g => exact s.completeSend_arbiterView g .closed
  case grant =>
    simp only [exec, execArbGrant, State.arbiterView_arbChoice, State.arbiterView_req]
    cases s.arbChoice with
    | none => rfl
    | some g =>
      dsimp only
      cases s.inp.req[g]? with
      | none => rfl
      | some r =>
        simp only [andThen_ite]
        rfl
  case sendLast =>
    simp only [exec, execArbSendLast, andThen_ite, ← State.completeSend_arbiterView]
    rfl
  case sendAbort => exact s.completeSend_arbiterView s.arb.gnt .closed
  case gapDone => exact s.completeSend_arbiterView s.arb.gnt .ok
  all_goals rfl

/-! ### The edge, on each view -/

/-- The decoder's part of an edge is its row on its view: the transmit port's rows before it and the arbiter's row after it
do not touch the view. -/
theorem runEdge_decoderView {s t : State} (h : runEdge s = .next t) :
    runRow s.decoderView.decRow s.decoderView = .next t.decoderView := by
  obtain ⟨v, hv, w, hw, ht⟩ := runEdge_eq_next.mp h
  obtain ⟨i, hi, hw⟩ := runRow_eq_next.mp hw
  obtain ⟨j, hj, ht⟩ := runRow_eq_next.mp ht
  have before : v.decoderView = s.decoderView := (driveTxPort_onlyTxPort s v hv).decoderView_eq
  have after : t.decoderView = w.decoderView :=
    (exec_arbiterRow_onlyArbiter (decodeAw_arbiterRow hj) ht).decoderView_eq
  have run : exec i v.decoderView = .next w.decoderView := by
    rw [exec_decoderRow_decoderView (State.decRow_decoderRow hi) v, hw, andThen_next]
  rw [← before, after]
  exact runRow_eq_next.mpr ⟨i, hi, run⟩

/-- The arbiter's part of an edge is its row on its view: the rows before it do not touch the view. -/
theorem runEdge_arbiterView {s t : State} (h : runEdge s = .next t) :
    runRow s.arbiterView.arbRow s.arbiterView = .next t.arbiterView := by
  obtain ⟨v, hv, w, hw, ht⟩ := runEdge_eq_next.mp h
  obtain ⟨i, hi, hw⟩ := runRow_eq_next.mp hw
  obtain ⟨j, hj, ht⟩ := runRow_eq_next.mp ht
  have before : w.arbiterView = s.arbiterView :=
    (exec_decoderRow_onlyDecoder (State.decRow_decoderRow hi) hw).arbiterView_eq.trans
      (driveTxPort_onlyTxPort s v hv).arbiterView_eq
  have run : exec j w.arbiterView = .next t.arbiterView := by
    rw [exec_arbiterRow_arbiterView (decodeAw_arbiterRow hj) w, ht, andThen_next]
  rw [← before]
  exact runRow_eq_next.mpr ⟨j, hj, run⟩

section
variable {s s' t t' : State} (h : clockEdge s = .next t) (h' : clockEdge s' = .next t')
  (hrst : s.inp.rst = s'.inp.rst)
include h h' hrst

/-- From states with one decoder view an edge leads to the same decoder and event registers. -/
theorem clockEdge_decoder_congr (hview : s.decoderView = s'.decoderView) : t.dec = t'.dec ∧ t.ev = t'.ev := by
  cases hr : s.inp.rst with
  | true =>
    rw [clockEdge_of_rst s hr] at h
    rw [clockEdge_of_rst s' (hrst ▸ hr)] at h'
    cases h
    cases h'
    exact ⟨rfl, rfl⟩
  | false =>
    have run := runEdge_decoderView (runEdge_of_clockEdge hr h)
    rw [hview, runEdge_decoderView (runEdge_of_clockEdge (hrst ▸ hr) h')] at run
    have next : t.decoderView = t'.decoderView := (Host.Outcome.next.inj run).symm
    exact ⟨congrArg (·.dec) next, congrArg (·.ev) next⟩

/-- From states with one arbiter view an edge leads to the same arbiter registers and the same bytes on the wire. -/
theorem clockEdge_arbiter_congr (hview : s.arbiterView = s'.arbiterView) :
    t.arb = t'.arb ∧ t.env.wire = t'.env.wire := by
  cases hr : s.inp.rst with
  | true =>
    rw [clockEdge_of_rst s hr] at h
    rw [clockEdge_of_rst s' (hrst ▸ hr)] at h'
    cases h
    cases h'
    exact ⟨congrArg (Arb.reset ·.cfg.nreq) hview, congrArg (·.env.wire) hview⟩
  | false =>
    have run := runEdge_arbiterView (runEdge_of_clockEdge hr h)
    rw [hview, runEdge_arbiterView (runEdge_of_clockEdge (hrst ▸ hr) h')] at run
    have next : t.arbiterView = t'.arbiterView := (Host.Outcome.next.inj run).symm
    exact ⟨congrArg (·.arb) next, congrArg (·.env.wire) next⟩

end

/-- Settles O50: the hypotheses of each half say that the two states agree on that half's view. -/
theorem decoderAndArbiterIndependent : Obligations.DecoderAndArbiterIndependent := by
  intro s s' t t' h h' hrst htick
  constructor
  · intro hdec hev hvalid hdata
    refine clockEdge_decoder_congr h h' hrst ?_
    simp [State.decoderView, hdec, hev, hvalid, hdata, htick]
  · intro hcfg harb hreq hopen hready hwire
    refine clockEdge_arbiter_congr h h' hrst ?_
    simp [State.arbiterView, hcfg, harb, hreq, hopen, hready, hwire, htick]

end Sys2Proof.Machine

/-! PROOFS. The registers of 10_state.md: their values at reset, what each edge makes of the arbiter's, the decoder's
and the event registers, and the invariant that every step keeps. -/

namespace Sys2Proof.Machine

/-! ### The row AW selects (R91) -/

/-- The arbiter's row at an edge, by the arbiter's state. -/
def State.arbSelect (s : State) : Instr :=
  match s.arb.st with
  | .idle => if s.pending.isEmpty then .arbIdleWait else if s.inp.txOpen then .arbGrant else .arbClosedNoop
  | .send =>
    if s.inp.txOpen then
      if s.inp.txReady then (if s.arb.atEnd then .arbSendLast else .arbSendByte) else .arbSendStall
    else .arbSendAbort
  | .gap => if s.arb.gapLast then .arbGapDone else .arbGapCount
  | .bad => .arbBadState

theorem State.arbRow_eq (s : State) : s.arbRow = .ok s.arbSelect := by
  have table : ∀ g e r o p : Bool, ∀ c : BitVec 2,
      decodeAw (BitVec.ofBool g ++ BitVec.ofBool e ++ BitVec.ofBool r ++ BitVec.ofBool o ++ BitVec.ofBool (!p) ++ c) =
        .ok (if c = 0 then (if p then .arbIdleWait else if o then .arbGrant else .arbClosedNoop)
          else if c = 1 then
            (if o then (if r then (if e then .arbSendLast else .arbSendByte) else .arbSendStall) else .arbSendAbort)
          else if c = 2 then (if g then .arbGapDone else .arbGapCount)
          else .arbBadState) := by decide
  rw [State.arbRow, State.arbWord, table, State.arbSelect]
  cases s.arb.st <;> rfl

/-- What the arbiter's edge makes of its registers, a constructor a row of R91. The state code 3 has none (R32). -/
inductive ArbEdge (s : State) : Arb → Prop
  | idleWait (st : s.arb.st = .idle) (none : s.pending = []) : ArbEdge s s.arb.clearDone
  | closedNoop (g : Nat) (st : s.arb.st = .idle) (closed : s.inp.txOpen = false) (pending : g ∈ s.pending) :
      ArbEdge s { s.arb.complete g .closed with st := .idle }
  | grant (g : Nat) (r : ReqPort) (st : s.arb.st = .idle) (isOpen : s.inp.txOpen = true) (pending : g ∈ s.pending)
      (req : s.inp.req[g]? = some r) (fits : r.len.toNat ≤ s.cfg.maxPayload) : ArbEdge s (s.arb.clearDone.grant g r)
  | sendAbort (st : s.arb.st = .send) (closed : s.inp.txOpen = false) :
      ArbEdge s { s.arb.complete s.arb.gnt .closed with st := .idle }
  | sendStall (st : s.arb.st = .send) (isOpen : s.inp.txOpen = true) (stalled : s.inp.txReady = false) :
      ArbEdge s s.arb.clearDone
  | sendByte (st : s.arb.st = .send) (isOpen : s.inp.txOpen = true) (ready : s.inp.txReady = true)
      (notEnd : s.arb.cur.toNat ≠ s.arb.len.toNat + 4) :
      ArbEdge s { s.arb.clearDone.csumStep s.offeredByte with cur := s.arb.cur + 1 }
  | sendLast (st : s.arb.st = .send) (isOpen : s.inp.txOpen = true) (ready : s.inp.txReady = true)
      (atEnd : s.arb.cur.toNat = s.arb.len.toNat + 4) (gap : s.cfg.gap ≠ 0) :
      ArbEdge s { s.arb.clearDone with seqCtr := s.arb.seqCtr + 1, gap := s.cfg.gap, st := .gap }
  | sendLastNoGap (st : s.arb.st = .send) (isOpen : s.inp.txOpen = true) (ready : s.inp.txReady = true)
      (atEnd : s.arb.cur.toNat = s.arb.len.toNat + 4) (gap : s.cfg.gap = 0) :
      ArbEdge s { s.arb.complete s.arb.gnt .ok with seqCtr := s.arb.seqCtr + 1, st := .idle }
  | gapCount (st : s.arb.st = .gap) (notLast : s.arb.gap ≠ 1) :
      ArbEdge s { s.arb.clearDone with gap := s.arb.gap - 1 }
  | gapDone (st : s.arb.st = .gap) (last : s.arb.gap = 1) :
      ArbEdge s { s.arb.complete s.arb.gnt .ok with st := .idle }

theorem State.arbEdge_of_idle {s t : State} (st : s.arb.st = .idle) (h : exec s.arbSelect s = .next t) :
    ArbEdge s t.arb := by
  simp only [State.arbSelect, st] at h
  split at h
  next none =>
    cases h
    exact .idleWait st (List.isEmpty_iff.mp none)
  split at h
  next isOpen =>
    simp only [exec, execArbGrant] at h
    split at h
    · cases h
    next g hg =>
    split at h
    · cases h
    next r hr =>
    split at h
    next fits =>
      cases h
      exact .grant g r st isOpen (s.arbChoice_mem g hg) hr fits
    · cases h
  next closed =>
    simp only [exec, execArbClosedNoop] at h
    split at h
    · cases h
    next g hg =>
    obtain ⟨-, rfl⟩ := s.completeSend_eq_next t g .closed h
    exact .closedNoop g st (Bool.eq_false_iff.mpr closed) (s.arbChoice_mem g hg)

theorem State.arbEdge_of_sendLast {s t : State} (st : s.arb.st = .send) (isOpen : s.inp.txOpen = true)
    (ready : s.inp.txReady = true) (atEnd : s.arb.cur.toNat = s.arb.len.toNat + 4)
    (h : exec .arbSendLast s = .next t) : ArbEdge s t.arb := by
  simp only [exec, execArbSendLast] at h
  split at h
  next gap =>
    obtain ⟨-, rfl⟩ := State.completeSend_eq_next _ _ _ _ h
    exact .sendLastNoGap st isOpen ready atEnd (beq_iff_eq.mp gap)
  next gap =>
    cases h
    exact .sendLast st isOpen ready atEnd (mt beq_iff_eq.mpr gap)

theorem State.arbEdge_of_send {s t : State} (st : s.arb.st = .send) (h : exec s.arbSelect s = .next t) :
    ArbEdge s t.arb := by
  simp only [State.arbSelect, st] at h
  split at h
  next isOpen =>
    split at h
    next ready =>
      split at h
      next atEnd => exact State.arbEdge_of_sendLast st isOpen ready (beq_iff_eq.mp atEnd) h
      next notEnd =>
        cases h
        exact .sendByte st isOpen ready (mt beq_iff_eq.mpr notEnd)
    next stalled =>
      cases h
      exact .sendStall st isOpen (Bool.eq_false_iff.mpr stalled)
  next closed =>
    obtain ⟨-, rfl⟩ := s.completeSend_eq_next t _ _ h
    exact .sendAbort st (Bool.eq_false_iff.mpr closed)

theorem State.arbEdge_of_gap {s t : State} (st : s.arb.st = .gap) (h : exec s.arbSelect s = .next t) :
    ArbEdge s t.arb := by
  simp only [State.arbSelect, st] at h
  split at h
  next last =>
    obtain ⟨-, rfl⟩ := s.completeSend_eq_next t _ _ h
    exact .gapDone st (beq_iff_eq.mp last)
  next notLast =>
    cases h
    exact .gapCount st (mt beq_iff_eq.mpr notLast)

theorem State.arbEdge_of_runRow {s t : State} (h : runRow s.arbRow s = .next t) : ArbEdge s t.arb := by
  rw [s.arbRow_eq] at h
  cases st : s.arb.st with
  | idle => exact State.arbEdge_of_idle st h
  | send => exact State.arbEdge_of_send st h
  | gap => exact State.arbEdge_of_gap st h
  | bad =>
    rw [State.arbSelect, st] at h
    cases h

/-- An edge without reset is an arbiter's edge: the decoder's row before it touches nothing that the arbiter reads. -/
theorem clockEdge_arbEdge {s t : State} (hrst : s.inp.rst = false) (h : clockEdge s = .next t) :
    ArbEdge s.arbiterView t.arb :=
  State.arbEdge_of_runRow (t := t.arbiterView) (runEdge_arbiterView (runEdge_of_clockEdge hrst h))

/-- Settles O37: AW's two low bits are 3. -/
theorem badArbiterStateFaults : Obligations.BadArbiterStateFaults := by
  intro s
  refine ⟨fun st => ?_, rfl⟩
  rw [s.arbRow_eq, State.arbSelect, st]

theorem ArbEdge.seqCtr {s : State} {a : Arb} (h : ArbEdge s a) :
    a.seqCtr =
      if s.arb.st = .send ∧ s.inp.txOpen = true ∧ s.inp.txReady = true ∧ s.arb.cur.toNat = s.arb.len.toNat + 4
      then s.arb.seqCtr + 1 else s.arb.seqCtr := by
  cases h with
  | sendLast st isOpen ready atEnd gap => exact (if_pos ⟨st, isOpen, ready, atEnd⟩).symm
  | sendLastNoGap st isOpen ready atEnd gap => exact (if_pos ⟨st, isOpen, ready, atEnd⟩).symm
  | sendAbort st closed => simp [closed]
  | sendStall st isOpen stalled => simp [stalled]
  | sendByte st isOpen ready notEnd => simp [notEnd, Arb.csumStep]
  | grant g r st => simp [st, Arb.grant, Arb.csumInit]
  | idleWait st => simp [st]
  | closedNoop g st => simp [st]
  | gapCount st => simp [st]
  | gapDone st => simp [st]

/-- Settles O39: RESET clears the counter; at any other edge the arbiter's row decides. -/
theorem sequenceCountsSends : Obligations.SequenceCountsSends := by
  intro s t h
  cases hr : s.inp.rst with
  | true =>
    rw [clockEdge_of_rst s hr] at h
    cases h
    rfl
  | false => exact (clockEdge_arbEdge hr h).seqCtr.trans (if_neg Bool.false_ne_true).symm

/-! ### The offered byte (R164) -/

theorem State.frameByteAt_body (s : State) {k : Nat} (h4 : 4 ≤ k) (hk : k < s.arb.len.toNat + 4) :
    s.frameByteAt k = s.bodyAt (k - 4) := by
  rw [State.frameByteAt, if_neg (by omega), if_neg (by omega), if_neg (by omega), if_neg (by omega), if_pos hk]

theorem State.frameByteAt_checksum (s : State) : s.frameByteAt (s.arb.len.toNat + 4) = s.arb.csum := by
  simp [State.frameByteAt]

/-- R143, R164: before the checksum byte the serializer offers the byte of the frame that the cursor names. -/
theorem State.frameHead_getElem? {s : State} (listed : Memory.listsFirst s.arb.len.toNat s.arb.body) {k : Nat}
    (hk : k < s.arb.len.toNat + 4) :
    (frameHead (Memory.bytes s.arb.body) s.arb.seqCtr)[k]? = some (s.frameByteAt k) := by
  have hlen : BitVec.ofNat 8 (Memory.bytes s.arb.body).length = s.arb.len := by
    rw [(Memory.listsFirst_eq _ _ listed).2, BitVec.ofNat_toNat, BitVec.setWidth_eq]
  match k with
  | 0 => rfl
  | 1 => rfl
  | 2 => exact congrArg some hlen
  | 3 => rfl
  | j + 4 =>
    rw [s.frameByteAt_body (by omega) hk]
    exact s.bodyAt_eq listed j (by omega)

/-- Settles O23: the port's line is FRAME_BYTE's value at the cursor, clause by clause. -/
theorem frameByteRow : Obligations.FrameByteRow := by
  intro s
  refine ⟨s.driveTx, rfl, rfl, ⟨rfl, rfl, rfl, rfl, rfl, rfl, rfl⟩, ?valid, ?data⟩
  case valid => simp [State.driveTx, State.txValid]
  case data =>
    intro hst hrst
    have offered : s.driveTx.tx.data = s.frameByteAt s.arb.cur.toNat :=
      if_pos (by simp [State.txValid, hst, hrst])
    rw [offered]
    refine ⟨fun h => ?_, fun h => ?_, fun h => ?_, fun h => ?_, fun h4 hlen => ?_, fun hend => ?_⟩
    iterate 4 (rw [h]; rfl)
    · rw [s.frameByteAt_body h4 (by omega)]
    · rw [hend, s.frameByteAt_checksum]

/-! ### The values and the invariant at reset (R47) -/

theorem Params.legal_iff {p : Params} : p.legal = true ↔
    1 ≤ p.nreq ∧ p.nreq ≤ 255 ∧ p.maxPayload ≤ 255 ∧ 1 ≤ p.battInterval ∧ 1 ≤ p.velInterval := by
  simp [Params.legal, and_assoc]

theorem Dec.inv_reset : Dec.Inv Dec.reset where
  canonical := rfl
  length := nofun
  cursor := nofun
  filled := nofun
  header := nofun

theorem Ev.inv_reset : Ev.Inv Ev.reset where
  kind := nofun
  none _ := ⟨rfl, rfl⟩
  ready := nofun
  mismatch := nofun
  listed := rfl

theorem Arb.inv_reset {cfg : Params} (legal : cfg.legal = true) : Arb.Inv cfg (Arb.reset cfg.nreq) where
  state := nofun
  ports := List.length_replicate
  granted := (Params.legal_iff.mp legal).1
  length := Nat.zero_le _
  body := rfl
  cursor := nofun
  csum := nofun
  gap := nofun
  oneDone := by simp [Arb.reset]

/-- Settles O45, part by part. -/
theorem invariantAtReset : Obligations.InvariantAtReset where
  cfg := by decide
  dec := Dec.inv_reset
  ev := Ev.inv_reset
  arb := Arb.inv_reset (by decide)
  inp := ⟨rfl, by decide⟩
  env := ⟨rfl, nofun, .nil⟩
  unread := nofun

/-- Settles O42: RESET's next state holds the reset values by definition, of every port. -/
theorem resetRow : Obligations.ResetRow := by
  intro s
  refine ⟨_, rfl, rfl, rfl, rfl, rfl, rfl, rfl, rfl, rfl, rfl, rfl, rfl, rfl, rfl, rfl, rfl, rfl,
    List.length_replicate, ?statuses, rfl, rfl, rfl, rfl, rfl⟩
  intro o ho
  rw [List.eq_of_mem_replicate ho]
  exact ⟨rfl, rfl⟩

/-- Settles O44, by evaluation. -/
theorem resetStateValues : Obligations.ResetStateValues := by
  unfold Obligations.ResetStateValues
  decide

/-! ### The arbiter's part of the invariant -/

theorem Arb.clearDone_filter_done (a : Arb) : a.clearDone.outs.filter (fun o => o.done) = [] := by
  simp [Arb.clearDone]

section
variable {cfg : Params} {a : Arb} (inv : Arb.Inv cfg a)
include inv

theorem Arb.Inv.clearDone : Arb.Inv cfg a.clearDone :=
  { inv with
    ports := a.clearDone_outs_length.trans inv.ports
    oneDone := by simp [a.clearDone_filter_done] }

/-- Outside SEND the cursor and the checksum are unconstrained (log 11). -/
theorem Arb.Inv.completeToIdle (g : Nat) (c : SendStatus) (n : Byte) :
    Arb.Inv cfg { a.complete g c with seqCtr := n, st := .idle } where
  state := nofun
  ports := (a.complete_outs_length g c).trans inv.ports
  granted := inv.granted
  length := inv.length
  body := inv.body
  cursor := nofun
  csum := nofun
  gap := nofun
  oneDone := a.complete_one_done g c

theorem Arb.Inv.toGap (n : Byte) (k : BitVec 16) (hk : k ≠ 0) :
    Arb.Inv cfg { a.clearDone with seqCtr := n, gap := k, st := .gap } :=
  { inv.clearDone with
    state := nofun
    cursor := nofun
    csum := nofun
    gap := fun _ => hk }

end

theorem Arb.inv_grant {cfg : Params} {a : Arb} (inv : Arb.Inv cfg a) {g : Nat} {r : ReqPort} (hg : g < cfg.nreq)
    (hdata : r.data.length = r.len.toNat) (fits : r.len.toNat ≤ cfg.maxPayload) :
    Arb.Inv cfg (a.clearDone.grant g r) where
  state := nofun
  ports := inv.clearDone.ports
  granted := hg
  length := fits
  body := by
    have hbody : r.body.length = r.len.toNat := by simp [ReqPort.body, hdata]
    rw [Arb.grant, ← hbody]
    exact Memory.fromList_listsFirst r.body
  cursor _ := Nat.zero_le _
  csum _ := rfl
  gap := nofun
  oneDone := inv.clearDone.oneDone

/-- R36: folding the offered byte in keeps the checksum the XOR of the bytes before the cursor. -/
theorem State.arbInv_sendByte {s : State} (inv : Arb.Inv s.cfg s.arb) (st : s.arb.st = .send)
    (notEnd : s.arb.cur.toNat ≠ s.arb.len.toNat + 4) :
    Arb.Inv s.cfg { s.arb.clearDone.csumStep s.offeredByte with cur := s.arb.cur + 1 } := by
  have before : s.arb.cur.toNat < s.arb.len.toNat + 4 := Nat.lt_of_le_of_ne (inv.cursor st) notEnd
  have next : (s.arb.cur + 1).toNat = s.arb.cur.toNat + 1 := by bv_omega
  exact { inv.clearDone with
    cursor := fun _ => next ▸ before
    csum := fun _ => by
      have folded := xorReduce_take_succ _ _ _ (State.frameHead_getElem? inv.body before)
      rw [← inv.csum st] at folded
      exact (next ▸ folded).symm }

theorem State.mem_pending {s : State} {g : Nat} (h : g ∈ s.pending) :
    g < s.cfg.nreq ∧ ∀ r, s.inp.req[g]? = some r → r.valid = true := by
  obtain ⟨hrange, hreq⟩ := List.mem_filter.mp h
  refine ⟨List.mem_range.mp hrange, fun r hr => ?_⟩
  rw [hr] at hreq
  split at hreq
  next r' o hr' ho =>
    cases hr'
    exact (Bool.and_eq_true_iff.mp hreq).1
  · cases hreq

theorem ArbEdge.keeps_inv {s : State} {a : Arb} (h : ArbEdge s a) (inv : Arb.Inv s.cfg s.arb)
    (requests : Inp.Inv s.cfg s.inp) : Arb.Inv s.cfg a := by
  cases h with
  | idleWait => exact inv.clearDone
  | closedNoop g => exact inv.completeToIdle g .closed _
  | grant g r st isOpen pending req fits =>
    obtain ⟨hg, valid⟩ := State.mem_pending pending
    exact Arb.inv_grant inv hg (requests.requests r (List.mem_of_getElem? req) (valid r req)).1 fits
  | sendAbort => exact inv.completeToIdle _ .closed _
  | sendStall => exact inv.clearDone
  | sendByte st isOpen ready notEnd => exact State.arbInv_sendByte inv st notEnd
  | sendLast st isOpen ready atEnd gap => exact inv.toGap _ _ gap
  | sendLastNoGap => exact inv.completeToIdle _ .ok _
  | gapCount st notLast =>
    have left : s.arb.gap - 1 ≠ 0 := fun h => notLast (sub_eq_zero.mp h)
    exact { inv.clearDone with gap := fun _ => left }
  | gapDone => exact inv.completeToIdle _ .ok _

/-! ### The row DW selects (R89, R90) -/

/-- The decoder's row at an edge with a byte, by the decoder's state; `csumOk` is the condition of rows 9 and 10. -/
def Dec.select (d : Dec) (csumOk : Bool) (b : Byte) : Instr :=
  match d.st with
  | .s1 => if b == Config.magic0 then .decSeek1Magic else .decSeek1Discard b
  | .s2 => if b == Config.magic1 then .decSeek2Magic else .decSeek2Discard b
  | .rl => if b == Config.len2 then .decLenAccept2 else if b == Config.len9 then .decLenAccept9 else .decLenReject b
  | .fill =>
    if d.cur.toNat == d.dsize - 1 then (if csumOk then .decFillCheckOk b else .decFillCheckBad b) else .decFillStore b

theorem word_append_inj (hi p : BitVec 3) (b c : Byte) : hi ++ b = p ++ c ↔ hi = p ∧ b = c := by
  constructor
  · intro h
    have high := congrArg (BitVec.extractLsb' 8 3) h
    have low := congrArg (BitVec.extractLsb' 0 8) h
    simp only [BitVec.extractLsb'_append_eq_left, BitVec.extractLsb'_append_eq_right] at high low
    exact ⟨high, low⟩
  · rintro ⟨rfl, rfl⟩
    rfl

/-- A row that frees the byte compares DW's three high bits. -/
theorem rowMatches_high (hi : BitVec 3) (b : Byte) (p : BitVec 3) :
    rowMatches (hi ++ b) 0x700 (p ++ (0 : Byte)) = (hi == p) := by
  rw [rowMatches, show (0x700 : BitVec 11) = 7#3 ++ 0#8 from rfl, BitVec.and_append, Bool.eq_iff_iff]
  have : hi &&& 7#3 = hi := BitVec.and_allOnes
  simp [word_append_inj, this]

/-- A row that fixes the byte compares all of DW. -/
theorem rowMatches_whole (hi : BitVec 3) (b : Byte) (p : BitVec 3) (c : Byte) :
    rowMatches (hi ++ b) 0x7FF (p ++ c) = (hi == p && b == c) := by
  rw [rowMatches, show (0x7FF : BitVec 11) = BitVec.allOnes 11 from rfl, BitVec.and_allOnes, Bool.eq_iff_iff]
  simp [word_append_inj]

/-- The table of R90 over DW's high bits, `at_last` and the state code, and its byte. -/
theorem decodeDw_append (csumOk : Bool) (hi : BitVec 3) (b : Byte) :
    decodeDw csumOk (hi ++ b) =
      if hi == 0 && b == Config.magic0 then .ok .decSeek1Magic
      else if hi == 0 then .ok (.decSeek1Discard b)
      else if hi == 1 && b == Config.magic1 then .ok .decSeek2Magic
      else if hi == 1 then .ok (.decSeek2Discard b)
      else if hi == 2 && b == Config.len2 then .ok .decLenAccept2
      else if hi == 2 && b == Config.len9 then .ok .decLenAccept9
      else if hi == 2 then .ok (.decLenReject b)
      else if hi == 3 then .ok (.decFillStore b)
      else if hi == 7 && csumOk then .ok (.decFillCheckOk b)
      else if hi == 7 && !csumOk then .ok (.decFillCheckBad b)
      else .error .impossibleWord := by
  have whole := rowMatches_whole hi b
  have high := rowMatches_high hi b
  have low : (hi ++ b).extractLsb' 0 8 = b := BitVec.extractLsb'_append_eq_right
  rw [← whole 0, ← whole 1, ← whole 2, ← whole 2, ← high 0, ← high 1, ← high 2, ← high 3, ← high 7, decodeDw, low]
  rfl

theorem Dec.atLast_of_not_fill {d : Dec} (st : d.st ≠ .fill) : d.atLast = false := by
  simp [Dec.atLast, st]

theorem Dec.atLast_of_fill {d : Dec} (st : d.st = .fill) : d.atLast = (d.cur.toNat == d.dsize - 1) := by
  simp [Dec.atLast, st]

theorem decodeDw_word (d : Dec) (csumOk : Bool) (b : Byte) :
    decodeDw csumOk (d.word b) = .ok (d.select csumOk b) := by
  rw [Dec.word, decodeDw_append, Dec.select]
  cases st : d.st with
  | s1 =>
    rw [Dec.atLast_of_not_fill (st ▸ nofun)]
    cases b == Config.magic0 <;> rfl
  | s2 =>
    rw [Dec.atLast_of_not_fill (st ▸ nofun)]
    cases b == Config.magic1 <;> rfl
  | rl =>
    rw [Dec.atLast_of_not_fill (st ▸ nofun)]
    cases b == Config.len2 <;> cases b == Config.len9 <;> rfl
  | fill =>
    rw [Dec.atLast_of_fill st]
    cases d.cur.toNat == d.dsize - 1 <;> cases csumOk <;> rfl

/-- The row DW selects does with the byte what the decoder's state machine does. -/
theorem exec_select (s : State) (b : Byte) : exec (s.dec.select (s.csumOk b) b) s = feed b s := by
  rw [Dec.select, feed]
  cases s.dec.st with
  | s1 => cases b == Config.magic0 <;> rfl
  | s2 => cases b == Config.magic1 <;> rfl
  | rl => cases b == Config.len2 <;> cases b == Config.len9 <;> rfl
  | fill => cases s.dec.cur.toNat == s.dec.dsize - 1 <;> cases s.csumOk b <;> rfl

theorem State.runRow_decRow (s : State) :
    runRow s.decRow s = if s.inp.rxValid then feed s.inp.rxData s else execDecIdle s := by
  rw [State.decRow, decodeDw_word, ← exec_select]
  cases s.inp.rxValid <;> rfl

/-! ### What the decoder's edge does (R110 to R120) -/

/-- What a byte makes of the decoder and event registers. The rows that store nothing differ in the next state alone. -/
inductive FeedEdge (s : State) (b : Byte) : Dec → Ev → Prop
  | seek (next : DecSt) (st : s.dec.st ≠ .fill) (notFill : next ≠ .fill) :
      FeedEdge s b { s.dec with st := next } s.noEmit.ev
  | accept (st : s.dec.st = .rl) (listed : b = Config.len2 ∨ b = Config.len9) :
      FeedEdge s b (s.acceptLen b).dec s.noEmit.ev
  | store (st : s.dec.st = .fill) (notLast : s.dec.cur.toNat ≠ s.dec.dsize - 1)
      (inside : s.dec.cur.toNat < Config.maxFrame) :
      FeedEdge s b
        { s.dec with buf := Memory.put s.dec.buf s.dec.cur.toNat b, cur := s.dec.cur + 1, st := .fill } s.noEmit.ev
  | ready (st : s.dec.st = .fill) (last : s.dec.cur.toNat = s.dec.dsize - 1) (inside : s.dec.dsize ≤ Config.maxFrame)
      (ok : s.csumOk b = true) :
      FeedEdge s b { s.dec with buf := Memory.put s.dec.buf (s.dec.dsize - 1) b, st := .s1 }
        (s.emit .ready (s.bufAt 4) (s.bufAt 3) (s.bufSlice 5 (s.dec.dsize - 6))).ev
  | mismatch (st : s.dec.st = .fill) (last : s.dec.cur.toNat = s.dec.dsize - 1)
      (inside : s.dec.dsize ≤ Config.maxFrame) (bad : s.csumOk b = false) :
      FeedEdge s b { s.dec with buf := Memory.put s.dec.buf (s.dec.dsize - 1) b, st := .s1 }
        (s.emit .mismatch 0x00 0x00 (s.bufSlice 0 (s.dec.dsize - 1) ++ [b])).ev

theorem feedEdge_of_fill {s t : State} {b : Byte} (st : s.dec.st = .fill) (h : feed b s = .next t) :
    FeedEdge s b t.dec t.ev := by
  simp only [feed, st] at h
  split at h
  next last =>
    have last := beq_iff_eq.mp last
    split at h
    next ok =>
      simp only [execDecFillCheckOk, ok] at h
      split at h
      next inside =>
        cases h
        exact .ready st last inside ok
      · cases h
    next bad =>
      simp only [execDecFillCheckBad, bad] at h
      split at h
      next inside =>
        cases h
        exact .mismatch st last inside (Bool.eq_false_iff.mpr bad)
      · cases h
  next notLast =>
    simp only [execDecFillStore] at h
    split at h
    next inside =>
      cases h
      exact .store st (mt beq_iff_eq.mpr notLast) inside
    · cases h

theorem feedEdge_of_feed {s t : State} {b : Byte} (h : feed b s = .next t) : FeedEdge s b t.dec t.ev := by
  cases st : s.dec.st with
  | fill => exact feedEdge_of_fill st h
  | s1 =>
    simp only [feed, st] at h
    split at h <;> cases h
    · exact .seek .s2 (st ▸ nofun) nofun
    · exact .seek .s1 (st ▸ nofun) nofun
  | s2 =>
    simp only [feed, st] at h
    split at h <;> cases h
    · exact .seek .rl (st ▸ nofun) nofun
    · exact .seek .s1 (st ▸ nofun) nofun
  | rl =>
    simp only [feed, st] at h
    split at h
    next two =>
      cases beq_iff_eq.mp two
      cases h
      exact .accept st (.inl rfl)
    split at h
    next nine =>
      cases beq_iff_eq.mp nine
      cases h
      exact .accept st (.inr rfl)
    · cases h
      exact .seek .s1 (st ▸ nofun) nofun

/-! ### The decoder's part of the invariant (R22 to R29) -/

/-- Outside FILL only the buffer's form counts. -/
theorem Dec.inv_of_not_fill {d : Dec} (canonical : Memory.wf Config.maxFrame d.buf = true) (st : d.st ≠ .fill) :
    Dec.Inv d where
  canonical := canonical
  length h := absurd h st
  cursor h := absurd h st
  filled h := absurd h st
  header h := absurd h st

theorem State.decInv_acceptLen {s : State} (canonical : Memory.wf Config.maxFrame s.dec.buf = true) {len : Byte}
    (listed : len = Config.len2 ∨ len = Config.len9) : Dec.Inv (s.acceptLen len).dec where
  canonical :=
    have first := Memory.wf_put _ _ 0 Config.magic0 (by decide) canonical
    have second := Memory.wf_put _ _ 1 Config.magic1 (by decide) first
    Memory.wf_put _ _ 2 len (by decide) second
  length _ := listed
  cursor _ := by
    simp only [State.acceptLen_dec, Dec.dsize]
    rcases listed with rfl | rfl <;> decide
  filled _ k hk := by
    have hk : k < 3 := hk
    interval_cases k <;> simp
  header _ := by simp

theorem Dec.inv_store {d : Dec} (inv : Dec.Inv d) (st : d.st = .fill) (notLast : d.cur.toNat ≠ d.dsize - 1)
    (inside : d.cur.toNat < Config.maxFrame) (b : Byte) :
    Dec.Inv { d with buf := Memory.put d.buf d.cur.toNat b, cur := d.cur + 1, st := .fill } := by
  obtain ⟨after, before⟩ := inv.cursor st
  obtain ⟨h0, h1, h2⟩ := inv.header st
  have next : (d.cur + 1).toNat = d.cur.toNat + 1 := by
    simp only [Config.maxFrame] at inside
    bv_omega
  refine ⟨Memory.wf_put _ _ _ _ inside inv.canonical, fun _ => inv.length st, fun _ => ?cursor, fun _ k hk => ?filled,
    fun _ => ?header⟩
  case cursor =>
    simp only [next, Dec.dsize] at *
    omega
  case filled =>
    simp only [next] at hk
    simp only [Memory.get_put]
    split
    · exact ⟨b, rfl⟩
    · exact inv.filled st k (by omega)
  case header =>
    simp only [Memory.get_put]
    rw [if_neg (by omega), if_neg (by omega), if_neg (by omega)]
    exact ⟨h0, h1, h2⟩

theorem Dec.inv_complete {d : Dec} (inv : Dec.Inv d) (inside : d.dsize ≤ Config.maxFrame) (b : Byte) :
    Dec.Inv { d with buf := Memory.put d.buf (d.dsize - 1) b, st := .s1 } :=
  Dec.inv_of_not_fill (Memory.wf_put _ _ _ _ (by simp only [Dec.dsize] at *; omega) inv.canonical) nofun

theorem FeedEdge.keeps_decInv {s : State} {b : Byte} {d : Dec} {e : Ev} (h : FeedEdge s b d e) (inv : Dec.Inv s.dec) :
    Dec.Inv d := by
  cases h with
  | seek next st notFill => exact Dec.inv_of_not_fill inv.canonical notFill
  | accept st listed => exact State.decInv_acceptLen inv.canonical listed
  | store st notLast inside => exact Dec.inv_store inv st notLast inside b
  | ready st last inside => exact Dec.inv_complete inv inside b
  | mismatch st last inside => exact Dec.inv_complete inv inside b

/-- R30: the event registers but `ev_valid` are held. -/
theorem State.evInv_noEmit {s : State} (inv : Ev.Inv s.ev) : Ev.Inv s.noEmit.ev :=
  { inv with none := fun h => ⟨rfl, (inv.none h).2⟩ }

theorem State.emit_listed (s : State) (kind : EvKind) (id seq : Byte) {bytes : List Byte}
    (short : bytes.length ≤ Config.maxFrame) :
    Memory.listsFirst (s.emit kind id seq bytes).ev.len.toNat (s.emit kind id seq bytes).ev.bytes := by
  have hlen : (BitVec.ofNat 4 bytes.length).toNat = bytes.length :=
    Nat.mod_eq_of_lt (Nat.lt_of_le_of_lt short (by decide))
  rw [State.emit_ev, hlen]
  exact Memory.fromList_listsFirst bytes

@[simp] theorem State.bufSlice_length (s : State) (lo n : Nat) : (s.bufSlice lo n).length = n := by
  simp [State.bufSlice, Memory.slice]

theorem State.evInv_ready {s : State} (length : s.dec.dlen = Config.len2 ∨ s.dec.dlen = Config.len9) (id seq : Byte) :
    Ev.Inv (s.emit .ready id seq (s.bufSlice 5 (s.dec.dsize - 6))).ev where
  kind := nofun
  none := nofun
  ready _ := by
    simp only [State.emit_ev, State.bufSlice_length, Dec.dsize]
    rcases length with h | h <;> rw [h] <;> decide
  mismatch := nofun
  listed := s.emit_listed _ _ _ <| by
    simp only [State.bufSlice_length, Dec.dsize]
    rcases length with h | h <;> rw [h] <;> decide

theorem State.evInv_mismatch {s : State} (length : s.dec.dlen = Config.len2 ∨ s.dec.dlen = Config.len9) (b : Byte) :
    Ev.Inv (s.emit .mismatch 0x00 0x00 (s.bufSlice 0 (s.dec.dsize - 1) ++ [b])).ev where
  kind := nofun
  none := nofun
  ready := nofun
  mismatch _ := by
    simp only [State.emit_ev, List.length_append, List.length_singleton, State.bufSlice_length, Dec.dsize]
    rcases length with h | h <;> rw [h] <;> decide
  listed := s.emit_listed _ _ _ <| by
    simp only [List.length_append, List.length_singleton, State.bufSlice_length, Dec.dsize]
    rcases length with h | h <;> rw [h] <;> decide

theorem FeedEdge.keeps_evInv {s : State} {b : Byte} {d : Dec} {e : Ev} (h : FeedEdge s b d e) (dec : Dec.Inv s.dec)
    (inv : Ev.Inv s.ev) : Ev.Inv e := by
  cases h with
  | seek => exact State.evInv_noEmit inv
  | accept => exact State.evInv_noEmit inv
  | store => exact State.evInv_noEmit inv
  | ready st last inside => exact State.evInv_ready (dec.length st) _ _
  | mismatch st last inside => exact State.evInv_mismatch (dec.length st) b

/-- Only the checksum slot emits. -/
theorem FeedEdge.noEvent {s : State} {b : Byte} {d : Dec} {e : Ev} (h : FeedEdge s b d e)
    (notLast : s.dec.atLast = false) : e = s.noEmit.ev := by
  cases h with
  | seek | accept | store => rfl
  | ready st last => simp [Dec.atLast, st, last] at notLast
  | mismatch st last => simp [Dec.atLast, st, last] at notLast

/-! ### The environment's part of the invariant (R87, R190, R193, R197, R198) -/

/-- What the invariant says of the parameters, the request ports and the environment. -/
structure State.HostInv (s : State) : Prop where
  legal : s.cfg.legal = true
  inp : Inp.Inv s.cfg s.inp
  env : Env.Inv s.cfg s.env

/-- What every agent but the consumer keeps: its own part of the invariant, and what the consumer has decided. -/
structure AgentMove (s t : State) : Prop where
  inv : s.HostInv → t.HostInv
  unread : t.env.unread = s.env.unread
  rst : t.inp.rst = s.inp.rst
  rxValid : t.inp.rxValid = s.inp.rxValid

theorem AgentMove.refl (s : State) : AgentMove s s := ⟨id, rfl, rfl, rfl⟩

theorem AgentMove.trans {s t u : State} (h : AgentMove s t) (k : AgentMove t u) : AgentMove s u :=
  ⟨k.inv ∘ h.inv, k.unread.trans h.unread, k.rst.trans h.rst, k.rxValid.trans h.rxValid⟩

/-- Activities may end, and they may change but for their generation. -/
theorem Env.Inv.of_sublist {cfg : Params} {e e' : Env} (inv : Env.Inv cfg e)
    (lanes : e'.lanes.length = e.lanes.length) (gen : e'.gen = e.gen)
    (vels : (e'.vels.map fun v => v.gen).Sublist (e.vels.map fun v => v.gen)) : Env.Inv cfg e' where
  lanes := lanes.trans inv.lanes
  generations v hv := by
    obtain ⟨w, hw, same⟩ := List.mem_map.mp (vels.subset (List.mem_map_of_mem hv))
    exact gen ▸ same ▸ inv.generations w hw
  rising := inv.rising.sublist vels

theorem AgentMove.setEnv {s : State} {e : Env} (unread : e.unread = s.env.unread)
    (lanes : e.lanes.length = s.env.lanes.length) (gen : e.gen = s.env.gen)
    (vels : (e.vels.map fun v => v.gen).Sublist (s.env.vels.map fun v => v.gen)) : AgentMove s (s.setEnv e) :=
  ⟨fun inv => ⟨inv.legal, inv.inp, inv.env.of_sublist lanes gen vels⟩, unread, rfl, rfl⟩

/-- A request port takes new lines. -/
theorem Inp.Inv.set {cfg : Params} {i : Inp} (inv : Inp.Inv cfg i) (k : Nat) {r : ReqPort}
    (legal : r.valid = true → r.data.length = r.len.toNat ∧ r.len.toNat ≤ cfg.maxPayload) :
    Inp.Inv cfg { i with req := i.req.set k r } where
  ports := List.length_set.trans inv.ports
  requests p hp hv := by
    rcases List.mem_or_eq_of_mem_set hp with hp | rfl
    · exact inv.requests p hp hv
    · exact legal hv

/-! ### The agents -/

theorem State.enqueue_agentMove {s t : State} {p : Nat} {body : List Byte} (h : s.enqueue p body = .next t) :
    AgentMove s t := by
  obtain ⟨l, -, rfl⟩ := s.enqueue_eq_next t p body h
  exact .setEnv rfl List.length_set rfl (.refl _)

theorem State.call_agentMove (s : State) (c : HostCall) : AgentMove s (s.call c) := .setEnv rfl rfl rfl (.refl _)

theorem State.actAs_agentMove (s : State) (who : Sender) : AgentMove s (s.actAs who) := .setEnv rfl rfl rfl (.refl _)

/-- Activities that keep their generations, whatever else becomes of them. -/
theorem map_gen_map {f : Velocity → Velocity} (keeps : ∀ v, (f v).gen = v.gen) (vels : List Velocity) :
    ((vels.map f).map fun v => v.gen) = vels.map fun v => v.gen := by
  rw [List.map_map]
  exact List.map_congr_left fun v _ => keeps v

theorem State.setPhase_agentMove (s : State) (g : Nat) (p : Phase) : AgentMove s (s.setPhase g p) := by
  have gens : ((s.setPhase g p).env.vels.map fun v => v.gen) = s.env.vels.map fun v => v.gen :=
    map_gen_map (fun _ => by split <;> rfl) _
  exact .setEnv rfl rfl rfl (gens ▸ .refl _)

theorem State.endVelocity_agentMove (s : State) (g : Nat) : AgentMove s (s.endVelocity g) :=
  .setEnv rfl rfl rfl (List.filter_sublist.map _)

/-- R198: the new activity has the new generation, which is above all others. -/
theorem State.setVelocity_agentMove (s : State) (left right : Int) : AgentMove s (s.setVelocity left right) := by
  refine ⟨fun inv => ⟨inv.legal, inv.inp, inv.env.lanes, fun v hv => ?_, ?_⟩, rfl, rfl, rfl⟩
  · rcases List.mem_append.mp hv with hv | hv
    · exact Nat.le_succ_of_le (inv.env.generations v hv)
    · rw [List.mem_singleton.mp hv]
      exact Nat.le_refl _
  · rw [State.setVelocity, State.setEnv_env, List.map_append, List.pairwise_append]
    refine ⟨inv.env.rising, List.pairwise_singleton _ _, fun a ha b hb => ?_⟩
    obtain ⟨v, hv, rfl⟩ := List.mem_map.mp ha
    rw [List.mem_singleton.mp hb]
    exact Nat.lt_succ_of_le (inv.env.generations v hv)

theorem State.startBattery_agentMove (s : State) : AgentMove s s.startBattery := by
  unfold State.startBattery
  split
  · exact .setEnv rfl rfl rfl (.refl _)
  · exact .refl s

theorem State.openSequence_agentMove (s : State) (wasOpen : Bool) : AgentMove s (s.openSequence wasOpen) := by
  unfold State.openSequence
  split
  · exact s.startBattery_agentMove.trans (State.setVelocity_agentMove _ 0 0)
  · exact .refl s

theorem takeEvent_agentMove {s t : State} (h : takeEvent s = .next t) : AgentMove s t := by
  unfold takeEvent at h
  split at h
  · cases h
    exact .refl s
  · split at h
    next i hi =>
      rcases s.receivedRow_cases i hi with rfl | rfl | rfl
      · cases h
        exact s.call_agentMove _
      · cases h
        exact s.call_agentMove _
      · exact ((s.call_agentMove _).trans (State.actAs_agentMove _ .gui)).trans (State.enqueue_agentMove h)
    · cases h
      exact s.call_agentMove _
  · cases h
    exact s.call_agentMove _
  · cases h

theorem guiMove_agentMove {m : GuiMove} {s t : State} (h : guiMove m s = .next t) : AgentMove s t := by
  cases m with
  | setVelocity left right =>
    cases h
    exact s.setVelocity_agentMove left right
  | selectMultiplier k =>
    simp only [guiMove] at h
    split at h <;> cases h
    exact .setEnv rfl rfl rfl (.refl _)
  | request port body => exact (s.actAs_agentMove .gui).trans (State.enqueue_agentMove h)
  | clearEncoder payload => exact (s.actAs_agentMove .gui).trans (State.enqueue_agentMove h)

theorem stepBattery_agentMove {s t : State} (h : stepBattery s = .next t) : AgentMove s t := by
  have setBatt : ∀ p, AgentMove s (s.setEnv { s.env with batt := p }) := fun _ => .setEnv rfl rfl rfl (.refl _)
  unfold stepBattery at h
  split at h
  · cases h
    exact .refl s
  · cases h
    exact .refl s
  · split at h <;> cases h <;> exact setBatt _
  · split at h
    · exact ((setBatt _).trans (State.actAs_agentMove _ .battery)).trans (State.enqueue_agentMove h)
    · cases h
      exact setBatt _

theorem stepVelocity_agentMove {v : Velocity} {s t : State} (h : stepVelocity v s = .next t) : AgentMove s t := by
  unfold stepVelocity at h
  split at h
  · cases h
    exact .refl s
  · split at h <;> cases h
    · exact s.setPhase_agentMove _ _
    · exact s.endVelocity_agentMove _
  · split at h
    · exact ((s.setPhase_agentMove _ _).trans (State.actAs_agentMove _ _)).trans (State.enqueue_agentMove h)
    · cases h
      exact s.setPhase_agentMove _ _

/-- A send's return ends no activity and changes no generation. -/
theorem Env.returned_keeps (e : Env) (who : Sender) :
    (e.returned who).unread = e.unread ∧ (e.returned who).lanes = e.lanes ∧ (e.returned who).gen = e.gen ∧
      ((e.returned who).vels.map fun v => v.gen) = e.vels.map fun v => v.gen := by
  cases who with
  | gui => exact ⟨rfl, rfl, rfl, rfl⟩
  | battery => exact ⟨rfl, rfl, rfl, rfl⟩
  | velocity g => exact ⟨rfl, rfl, rfl, map_gen_map (fun _ => by split <;> rfl) _⟩

theorem State.setReq_agentMove (s : State) (k : Nat) {r : ReqPort} (legal : s.cfg.legal = true → r.valid = true →
    r.data.length = r.len.toNat ∧ r.len.toNat ≤ s.cfg.maxPayload) :
    AgentMove s (s.setInp { s.inp with req := s.inp.req.set k r }) :=
  ⟨fun inv => ⟨inv.legal, inv.inp.set k (legal inv.legal), inv.env⟩, rfl, rfl, rfl⟩

theorem returnPort_agentMove {i : Nat} {s t : State} (h : returnPort i s = .next t) : AgentMove s t := by
  unfold returnPort at h
  split at h
  next l r o _ _ _ =>
    split at h <;> cases h
    · have withdrawn : (ReqPort.withdrawn i s.cfg.maxPayload s.tick).valid ≠ true := Bool.false_ne_true
      refine (s.setReq_agentMove i fun _ valid => absurd valid withdrawn).trans ?_
      obtain ⟨unread, lanes, gen, vels⟩ :=
        Env.returned_keeps { s.env with lanes := s.env.lanes.set i { l with result := some o.status } } l.owner
      exact .setEnv unread (lanes ▸ List.length_set) gen (vels ▸ .refl _)
    · exact .refl s
  · cases h
    exact .refl s

/-- A presented body's length fits its eight bits (R8, R87). -/
theorem Params.legal_request {cfg : Params} (legal : cfg.legal = true) {body : List Byte}
    (fits : body.length ≤ cfg.maxPayload) :
    body.length = (BitVec.ofNat 8 body.length).toNat ∧ (BitVec.ofNat 8 body.length).toNat ≤ cfg.maxPayload := by
  obtain ⟨-, -, bound, -, -⟩ := Params.legal_iff.mp legal
  have byte : (BitVec.ofNat 8 body.length).toNat = body.length := Nat.mod_eq_of_lt (by omega)
  exact ⟨byte.symm, byte.trans_le fits⟩

theorem raisePort_agentMove {hold : List Nat} {i : Nat} {s t : State} (h : raisePort hold i s = .next t) :
    AgentMove s t := by
  unfold raisePort at h
  split at h
  · cases h
    exact .refl s
  split at h
  · split at h
    · cases h
      exact .refl s
    split at h
    · cases h
      exact .refl s
    split at h
    next fits =>
      cases h
      exact (s.setReq_agentMove i fun legal _ => Params.legal_request legal fits).trans
        (.setEnv rfl List.length_set rfl (.refl _))
    · cases h
  · cases h
    exact .refl s

theorem forAll_agentMove {α : Type} {f : α → State → Result} {xs : List α} {s t : State}
    (one : ∀ x s t, f x s = .next t → AgentMove s t) (h : forAll f xs s = .next t) : AgentMove s t :=
  forAll_keeps AgentMove f xs .refl (fun _ _ _ => .trans) (fun x _ => one x) s t h

/-- After the consumer's part the environment's part of a cycle is agents' moves. -/
theorem hostPhase_consume {s t : State} (h : hostPhase s = .next t) :
    ∃ s1, consume s.nextMove.1.late s.takeMove = .next s1 ∧ AgentMove s1 t := by
  obtain ⟨s1, s2, s3, s4, s5, h1, h2, h3, h4, h5, h6⟩ := hostPhase_eq_next s t h
  have back : AgentMove s1 s2 := forAll_agentMove (fun _ _ _ => returnPort_agentMove) h2
  have gui : AgentMove (s2.openSequence s.inp.txOpen) s3 := forAll_agentMove (fun _ _ _ => guiMove_agentMove) h3
  have vels : AgentMove s4 s5 := forAll_agentMove (fun _ _ _ => stepVelocity_agentMove) h5
  have raise : AgentMove s5 t := forAll_agentMove (fun _ _ _ => raisePort_agentMove) h6
  exact ⟨s1, h1, ((((back.trans (s2.openSequence_agentMove _)).trans gui).trans (stepBattery_agentMove h4)).trans
    vels).trans raise⟩

theorem consume_keeps_hostInv {late : Bool} {s t : State} (h : consume late s = .next t) (inv : s.HostInv) :
    t.HostInv := by
  have setUnread : ∀ b, (s.setUnread b).HostInv := fun _ =>
    ⟨inv.legal, inv.inp, inv.env.of_sublist rfl rfl (.refl _)⟩
  obtain ⟨-, e⟩ | ⟨-, -, -, e⟩ | ⟨-, -, e⟩ := consume_cases late s <;> rw [e] at h
  · cases h
    exact inv
  · cases h
    exact setUnread true
  · exact (takeEvent_agentMove h).inv (setUnread false)

/-- R195: the consumer leaves an event for later only while there is one and the edge does not overwrite it. -/
theorem consume_left {late : Bool} {s t : State} (h : consume late s = .next t) (left : t.env.unread = true) :
    s.eventDue = true ∧ s.mustRead = false ∧ t = s.setUnread true := by
  obtain ⟨due, e⟩ | ⟨due, -, may, e⟩ | ⟨-, -, e⟩ := consume_cases late s <;> rw [e] at h
  · cases h
    simp [State.eventDue, left] at due
  · cases h
    exact ⟨due, may, rfl⟩
  · rw [(takeEvent_agentMove h).unread] at left
    cases left

theorem State.takeMove_hostInv {s : State} (inv : s.HostInv) : s.takeMove.HostInv :=
  ⟨inv.legal, ⟨inv.inp.ports, inv.inp.requests⟩, inv.env.of_sublist rfl rfl (.refl _)⟩

theorem State.Inv.hostInv {s : State} (inv : s.Inv) : s.HostInv := ⟨inv.cfg, inv.inp, inv.env⟩

/-- An event that is due is in the registers (R26, R195). -/
theorem State.Inv.kind_of_eventDue {s : State} (inv : s.Inv) (due : s.eventDue = true) : s.ev.kind ≠ .noEvent := by
  rcases Bool.or_eq_true_iff.mp due with valid | unread
  · intro none
    rw [(inv.ev.none none).1] at valid
    cases valid
  · exact (inv.unread unread).2

/-- The invariant between the environment's part of a cycle and the edge: an event left unread is not overwritten. -/
structure State.PreEdgeInv (s : State) : Prop where
  host : s.HostInv
  dec : Dec.Inv s.dec
  ev : Ev.Inv s.ev
  arb : Arb.Inv s.cfg s.arb
  unread : s.env.unread = true → s.mustRead = false ∧ s.ev.kind ≠ .noEvent

theorem hostPhase_preEdgeInv {s t : State} (inv : s.Inv) (h : hostPhase s = .next t) : t.PreEdgeInv := by
  obtain ⟨hcfg, hdec, hev, harb, -, -⟩ := hostPhase_onlyInputs s t h
  obtain ⟨s1, h1, moves⟩ := hostPhase_consume h
  refine ⟨moves.inv (consume_keeps_hostInv h1 (State.takeMove_hostInv inv.hostInv)), hdec ▸ inv.dec, hev ▸ inv.ev,
    hcfg ▸ harb ▸ inv.arb, fun left => ?_⟩
  obtain ⟨due, may, rfl⟩ := consume_left h1 (moves.unread ▸ left)
  refine ⟨?_, hev ▸ inv.kind_of_eventDue due⟩
  rw [State.mustRead, moves.rst, moves.rxValid, hdec]
  exact may

/-! ### The edge -/

/-- The edge without reset keeps all but the registers, the transmit port and the bytes on the wire (R16). -/
theorem runEdge_frame {s t : State} (h : runEdge s = .next t) :
    t.cfg = s.cfg ∧ t.inp = s.inp ∧ t.env = { s.env with wire := t.env.wire } := by
  obtain ⟨v, hv, w, hw, ht⟩ := runEdge_eq_next.mp h
  obtain ⟨i, hi, hw⟩ := runRow_eq_next.mp hw
  obtain ⟨j, hj, ht⟩ := runRow_eq_next.mp ht
  obtain ⟨cfg1, -, -, -, inp1, env1, -⟩ := driveTxPort_onlyTxPort s v hv
  obtain ⟨cfg2, -, -, inp2, env2, -⟩ := exec_decoderRow_onlyDecoder (State.decRow_decoderRow hi) hw
  obtain ⟨cfg3, -, -, -, inp3, env3, -⟩ := exec_arbiterRow_onlyArbiter (decodeAw_arbiterRow hj) ht
  rw [env2, env1] at env3
  exact ⟨(cfg3.trans cfg2).trans cfg1, (inp3.trans inp2).trans inp1, env3⟩

theorem runRow_decRow_keeps {s t : State} (h : runRow s.decRow s = .next t) (dec : Dec.Inv s.dec) (ev : Ev.Inv s.ev) :
    Dec.Inv t.dec ∧ Ev.Inv t.ev := by
  rw [s.runRow_decRow] at h
  split at h
  · have edge := feedEdge_of_feed h
    exact ⟨edge.keeps_decInv dec, edge.keeps_evInv dec ev⟩
  · cases h
    exact ⟨dec, State.evInv_noEmit ev⟩

/-- R195: at an edge that does not overwrite the event registers `ev_valid` falls and the event stays. -/
theorem runRow_decRow_noEvent {s t : State} (h : runRow s.decRow s = .next t) (may : s.mustRead = false) :
    t.ev = { s.ev with valid := false } := by
  rw [s.runRow_decRow] at h
  split at h
  next byte =>
    refine (feedEdge_of_feed h).noEvent ?_
    simpa [byte] using (Bool.or_eq_false_iff.mp may).2
  · cases h
    rfl

theorem clockEdge_keeps_inv_of_not_rst {s t : State} (inv : s.PreEdgeInv) (hrst : s.inp.rst = false)
    (h : clockEdge s = .next t) : t.Inv := by
  have edge := runEdge_of_clockEdge hrst h
  obtain ⟨hcfg, hinp, henv⟩ := runEdge_frame edge
  have hdec := runEdge_decoderView edge
  obtain ⟨dec, ev⟩ := runRow_decRow_keeps hdec inv.dec inv.ev
  have requests : Inp.Inv s.cfg s.arbiterView.inp := ⟨inv.host.inp.ports, inv.host.inp.requests⟩
  refine ⟨hcfg ▸ inv.host.legal, dec, ev, hcfg ▸ (clockEdge_arbEdge hrst h).keeps_inv inv.arb requests,
    hcfg ▸ hinp ▸ inv.host.inp, ?env, fun left => ?unread⟩
  case env =>
    rw [hcfg, henv]
    exact inv.host.env.of_sublist rfl rfl (.refl _)
  case unread =>
    rw [henv] at left
    obtain ⟨may, kind⟩ := inv.unread left
    have view : s.decoderView.mustRead = s.mustRead := by
      rw [State.mustRead, State.mustRead, hrst]
      rfl
    have held : t.ev = { s.ev with valid := false } :=
      runRow_decRow_noEvent (s := s.decoderView) (t := t.decoderView) hdec (view.trans may)
    rw [held]
    exact ⟨rfl, kind⟩

/-- RESET overwrites the event registers, so no event was left unread. -/
theorem clockEdge_keeps_inv_of_rst {s t : State} (inv : s.PreEdgeInv) (hrst : s.inp.rst = true)
    (h : clockEdge s = .next t) : t.Inv := by
  rw [clockEdge_of_rst s hrst] at h
  cases h
  refine ⟨inv.host.legal, Dec.inv_reset, Ev.inv_reset, Arb.inv_reset inv.host.legal, inv.host.inp, inv.host.env,
    fun left => ?_⟩
  have may := (inv.unread left).1
  simp [State.mustRead, hrst] at may

theorem State.Inv.advance {s : State} (inv : s.Inv) : s.advance.Inv :=
  ⟨inv.cfg, inv.dec, inv.ev, inv.arb, inv.inp, inv.env, inv.unread⟩

/-- Settles O46: the environment's part of a cycle leads from the invariant to the one before the edge, the edge back. -/
theorem invariantKeptByStep : Obligations.InvariantKeptByStep := by
  intro s t inv h
  obtain ⟨u, hu, h⟩ := andThen_eq_next.mp h
  obtain ⟨x, hx, h⟩ := andThen_eq_next.mp h
  cases h
  have before := hostPhase_preEdgeInv inv hu
  cases hrst : u.inp.rst with
  | true => exact (clockEdge_keeps_inv_of_rst before hrst hx).advance
  | false => exact (clockEdge_keeps_inv_of_not_rst before hrst hx).advance

end Sys2Proof.Machine

/-! PROOFS. The byte arrays and the byte sequences (20_memory.md): what an edge transfers to the wire and who may
complete while a port holds the grant, and the canonical form of the three arrays, which every row keeps. -/

namespace Sys2Proof.Machine

/-! ### The bytes transferred at an edge (R70, R88) -/

/-- What a row of the arbiter adds to the wire: the two rows that send transfer the byte offered. -/
def State.transferredBy (s : State) (i : Instr) : List Byte :=
  if i = .arbSendByte ∨ i = .arbSendLast then [s.offeredByte] else []

theorem State.completeSend_wire_body {s t : State} {g : Nat} {c : SendStatus} (h : s.completeSend g c = .next t) :
    t.env.wire = s.env.wire ∧ t.arb.body = s.arb.body := by
  obtain ⟨-, rfl⟩ := s.completeSend_eq_next t g c h
  exact ⟨rfl, rfl⟩

/-- What a row of the arbiter, selected or not, makes of the wire, and of `a_body`, which the grant alone writes. -/
theorem exec_arbiterRow_wire_body {i : Instr} (hi : ArbiterRow i) {s t : State} (h : exec i s = .next t) :
    t.env.wire = s.env.wire ++ s.transferredBy i ∧
      (t.arb.body = s.arb.body ∨
        ∃ r : ReqPort, r.len.toNat ≤ s.cfg.maxPayload ∧ t.arb.body = Memory.fromList 0 r.body) := by
  have silent : t.env.wire = s.env.wire → t.env.wire = s.env.wire ++ [] := fun wire => by rw [wire, List.append_nil]
  cases hi
  case closedNoop =>
    simp only [exec, execArbClosedNoop] at h
    split at h
    · cases h
    · obtain ⟨wire, body⟩ := State.completeSend_wire_body h
      exact ⟨silent wire, .inl body⟩
  case grant =>
    simp only [exec, execArbGrant] at h
    split at h
    · cases h
    split at h
    · cases h
    next r _ =>
    split at h
    next fits =>
      cases h
      exact ⟨silent rfl, .inr ⟨r, fits, rfl⟩⟩
    · cases h
  case sendByte =>
    cases h
    exact ⟨rfl, .inl rfl⟩
  case sendLast =>
    simp only [exec, execArbSendLast] at h
    split at h
    · obtain ⟨wire, body⟩ := State.completeSend_wire_body h
      exact ⟨wire, .inl body⟩
    · cases h
      exact ⟨rfl, .inl rfl⟩
  case sendAbort | gapDone =>
    obtain ⟨wire, body⟩ := State.completeSend_wire_body h
    exact ⟨silent wire, .inl body⟩
  case badState => cases h
  case idleWait | sendStall | gapCount =>
    cases h
    exact ⟨silent rfl, .inl rfl⟩

/-- A row that transfers is selected exactly when the byte is offered and the transport is ready and open. -/
theorem State.arbSelect_transfers_iff (s : State) :
    (s.arbSelect = .arbSendByte ∨ s.arbSelect = .arbSendLast) ↔
      s.arb.st = .send ∧ s.inp.txReady = true ∧ s.inp.txOpen = true := by
  cases st : s.arb.st with
  | send =>
    cases isOpen : s.inp.txOpen <;> cases ready : s.inp.txReady <;> cases atEnd : s.arb.atEnd <;>
      simp [State.arbSelect, st, isOpen, ready, atEnd]
  | idle =>
    cases none : s.pending.isEmpty <;> cases isOpen : s.inp.txOpen <;> simp [State.arbSelect, st, none, isOpen]
  | gap => cases last : s.arb.gapLast <;> simp [State.arbSelect, st, last]
  | bad => simp [State.arbSelect, st]

theorem clockEdge_wire {s t : State} (hrst : s.inp.rst = false) (h : clockEdge s = .next t) :
    t.env.wire = s.env.wire ++
      if s.arb.st = .send ∧ s.inp.txReady = true ∧ s.inp.txOpen = true then [s.offeredByte] else [] := by
  have run := runEdge_arbiterView (runEdge_of_clockEdge hrst h)
  rw [s.arbiterView.arbRow_eq] at run
  have row : ArbiterRow s.arbiterView.arbSelect := decodeAw_arbiterRow s.arbiterView.arbRow_eq
  have wire := (exec_arbiterRow_wire_body row run).1
  rw [State.transferredBy] at wire
  simp only [State.arbSelect_transfers_iff] at wire
  exact wire

/-! ### The grant (R70, R171) -/

/-- The ports that an edge completes are none, or `g` alone. -/
def Arb.CompletesOnly (g : Nat) (a : Arb) : Prop :=
  ∀ (j : Nat) (o : PortOut), a.outs[j]? = some o → o.done = true → j = g

theorem Arb.clearDone_completesOnly (a : Arb) (g : Nat) : a.clearDone.CompletesOnly g := by
  intro j o ho done
  rw [a.clearDone_none_done o (List.mem_of_getElem? ho)] at done
  cases done

theorem Arb.complete_completesOnly (a : Arb) (g : Nat) (c : SendStatus) : (a.complete g c).CompletesOnly g := by
  intro j o ho done
  rw [a.complete_outs] at ho
  obtain ⟨p, -, rfl⟩ := Option.map_eq_some_iff.mp ho
  by_contra other
  rw [if_neg other] at done
  cases done

/-- In SEND and GAP the grant and the captured body are kept, and only the granted port completes. -/
theorem ArbEdge.keeps_grant {s : State} {a : Arb} (h : ArbEdge s a) (held : s.arb.st = .send ∨ s.arb.st = .gap) :
    a.gnt = s.arb.gnt ∧ a.len = s.arb.len ∧ a.body = s.arb.body ∧ a.CompletesOnly s.arb.gnt := by
  have notIdle : s.arb.st ≠ .idle := by rcases held with st | st <;> rw [st] <;> nofun
  have cleared := s.arb.clearDone_completesOnly s.arb.gnt
  have completed := s.arb.complete_completesOnly s.arb.gnt
  cases h with
  | idleWait st => exact absurd st notIdle
  | closedNoop g st => exact absurd st notIdle
  | grant g r st => exact absurd st notIdle
  | sendStall => exact ⟨rfl, rfl, rfl, cleared⟩
  | sendByte => exact ⟨rfl, rfl, rfl, cleared⟩
  | sendLast => exact ⟨rfl, rfl, rfl, cleared⟩
  | gapCount => exact ⟨rfl, rfl, rfl, cleared⟩
  | sendAbort => exact ⟨rfl, rfl, rfl, completed .closed⟩
  | sendLastNoGap => exact ⟨rfl, rfl, rfl, completed .ok⟩
  | gapDone => exact ⟨rfl, rfl, rfl, completed .ok⟩

/-- Settles O38: the wire by the row AW selects, the grant by the cases of the arbiter's edge. -/
theorem grantIsExclusive : Obligations.GrantIsExclusive := by
  intro s t hrst h
  exact ⟨clockEdge_wire hrst h, (clockEdge_arbEdge hrst h).keeps_grant⟩

/-! ### The canonical form of the arrays (R24, R29, R34, R60) -/

theorem State.arraysCanonical.of_onlyInputs {s t : State} (inv : s.arraysCanonical) (h : OnlyInputs s t) :
    t.arraysCanonical := by
  obtain ⟨hcfg, hdec, hev, harb, -, -⟩ := h
  rw [State.arraysCanonical, hcfg, hdec, hev, harb]
  exact inv

theorem State.arraysCanonical.acceptLen {s : State} (inv : s.arraysCanonical) {len : Byte}
    (listed : len = Config.len2 ∨ len = Config.len9) : (s.acceptLen len).arraysCanonical := by
  obtain ⟨buf, ev, body⟩ := inv
  exact ⟨(State.decInv_acceptLen buf listed).canonical, ev, body⟩

theorem State.arraysCanonical.bufWrite {s : State} (inv : s.arraysCanonical) {k : Nat} (inside : k < Config.maxFrame)
    (b : Byte) : (s.bufWrite k b).arraysCanonical := by
  obtain ⟨buf, ev, body⟩ := inv
  exact ⟨Memory.wf_put _ _ k b inside buf, ev, body⟩

theorem State.arraysCanonical.emit {s : State} (inv : s.arraysCanonical) (kind : EvKind) (id seq : Byte)
    {bytes : List Byte} (short : bytes.length ≤ Config.maxFrame) : (s.emit kind id seq bytes).arraysCanonical := by
  obtain ⟨buf, -, body⟩ := inv
  exact ⟨buf, Memory.wf_fromList _ bytes short, body⟩

/-- The slot of the checksum byte is inside the buffer where the frame is. -/
theorem Dec.checksumSlot_lt {d : Dec} (inside : d.dsize ≤ Config.maxFrame) : d.dsize - 1 < Config.maxFrame := by
  simp only [Dec.dsize] at *
  omega

theorem exec_decoderRow_keeps_arraysCanonical {i : Instr} (hi : DecoderRow i) {s t : State} (inv : s.arraysCanonical)
    (h : exec i s = .next t) : t.arraysCanonical := by
  cases hi
  case lenAccept2 =>
    cases h
    exact inv.acceptLen (.inl rfl)
  case lenAccept9 =>
    cases h
    exact inv.acceptLen (.inr rfl)
  case fillStore b =>
    simp only [exec, execDecFillStore] at h
    split at h
    next inside =>
      cases h
      exact inv.bufWrite inside b
    · cases h
  case fillCheckOk b =>
    simp only [exec, execDecFillCheckOk] at h
    split at h
    next inside =>
      have written := inv.bufWrite (Dec.checksumSlot_lt inside) b
      split at h <;> cases h
      · refine State.arraysCanonical.emit written _ _ _ ?_
        rw [State.bufSlice_length]
        omega
      · exact written
    · cases h
  case fillCheckBad b =>
    simp only [exec, execDecFillCheckBad] at h
    split at h
    next inside =>
      have slot := Dec.checksumSlot_lt inside
      have written := inv.bufWrite slot b
      split at h <;> cases h
      · exact written
      · refine State.arraysCanonical.emit written _ _ _ ?_
        rw [List.length_append, State.bufSlice_length]
        exact slot
    · cases h
  all_goals
    cases h
    exact inv

/-- A byte runs one of the decoder's rows. -/
theorem feed_keeps_arraysCanonical {b : Byte} {s t : State} (inv : s.arraysCanonical) (h : feed b s = .next t) :
    t.arraysCanonical :=
  exec_decoderRow_keeps_arraysCanonical (decodeDw_decoderRow (decodeDw_word s.dec (s.csumOk b) b)) inv
    ((exec_select s b).trans h)

theorem feedAll_keeps_arraysCanonical {bytes : List Byte} {s t : State} (inv : s.arraysCanonical)
    (h : feedAll bytes s = .next t) : t.arraysCanonical :=
  forAll_invariant State.arraysCanonical feed bytes (fun _ _ _ _ => feed_keeps_arraysCanonical) s t inv h

/-- R34: a captured body fits the parameter, so it makes a canonical `a_body`. -/
theorem exec_arbiterRow_keeps_arraysCanonical {i : Instr} (hi : ArbiterRow i) {s t : State} (inv : s.arraysCanonical)
    (h : exec i s = .next t) : t.arraysCanonical := by
  obtain ⟨hcfg, hdec, hev, -⟩ := exec_arbiterRow_onlyArbiter hi h
  obtain ⟨buf, ev, body⟩ := inv
  rw [State.arraysCanonical, hcfg, hdec, hev]
  refine ⟨buf, ev, ?_⟩
  obtain ⟨-, kept | ⟨r, fits, captured⟩⟩ := exec_arbiterRow_wire_body hi h
  · rw [kept]
    exact body
  · rw [captured]
    exact Memory.wf_fromList _ r.body ((List.length_take_le _ _).trans fits)

theorem State.arraysCanonical.enqueue {s t : State} {p : Nat} {body : List Byte} (inv : s.arraysCanonical)
    (h : s.enqueue p body = .next t) : t.arraysCanonical :=
  inv.of_onlyInputs (State.enqueue_onlyHost s t p body h).onlyInputs

/-- Settles O48, table by table: only decoder rows, frame rows, the grant and RESET write an array. -/
theorem rowsKeepArraysCanonical : Obligations.RowsKeepArraysCanonical := by
  intro i s t inv h
  have decoder : DecoderRow i → t.arraysCanonical := fun row => exec_decoderRow_keeps_arraysCanonical row inv h
  have arbiter : ArbiterRow i → t.arraysCanonical := fun row => exec_arbiterRow_keeps_arraysCanonical row inv h
  cases i
  case decIdle | decSeek1Magic | decSeek1Discard | decSeek2Magic | decSeek2Discard | decLenAccept2 | decLenAccept9
      | decLenReject | decFillStore | decFillCheckOk | decFillCheckBad =>
    exact decoder (by constructor)
  case arbIdleWait | arbClosedNoop | arbGrant | arbSendAbort | arbSendStall | arbSendByte | arbSendLast | arbGapCount
      | arbGapDone | arbBadState =>
    exact arbiter (by constructor)
  case frameLen2 | frameLen9 => exact feedAll_keeps_arraysCanonical inv h
  case reset =>
    cases h
    exact ⟨rfl, rfl, rfl⟩
  case idVelocity | idBatteryQuery | idClearEncoder => exact inv.enqueue h
  case idTimeout => exact inv.of_onlyInputs (execIdTimeout_onlyHost s t h).onlyInputs
  case frameByte | csumInit | csumStep | encode | idBatteryReport | idResetAck =>
    cases h
    exact inv

end Sys2Proof.Machine

/-! PROOFS. The encodings (30_encoding.md): decoding inverts the encoder, the fields of DW and AW and what they select,
the wire frames as their bytes fed in order, and the ID rows. -/

namespace Sys2Proof.Machine

/-! ### Decoding an encoded row (R89 to R96) -/

/-- The decoder reads DW's high bits from the low bits of the word's second byte. -/
theorem decode_dwWord (csumOk : Bool) (hi : BitVec 3) (b : Byte) :
    decode (.dw csumOk) (dwWord (hi.setWidth 8) b) = decodeDw csumOk (hi ++ b) := by
  have fits : ∀ hi : BitVec 3, ((hi.setWidth 8 >>> 3 : Byte) == 0) = true := by decide
  have low : ∀ hi : BitVec 3, (hi.setWidth 8 : Byte).extractLsb' 0 3 = hi := by decide
  rw [dwWord, decode, if_pos (fits hi), low hi]

theorem decode_encode_decoderRow {i : Instr} (row : DecoderRow i) (wf : i.wellFormed = true) :
    decode (encode i).1 (encode i).2 = .ok i := by
  have word (csumOk : Bool) (hi : BitVec 3) (b : Byte) :=
    (decode_dwWord csumOk hi b).trans (decodeDw_append csumOk hi b)
  cases row with
  | idle | seek1Magic | seek2Magic | lenAccept2 | lenAccept9 => rfl
  | seek1Discard b =>
    have other : (b == Config.magic0) = false := by simpa [Instr.wellFormed] using wf
    exact (word true 0 b).trans (by rw [other]; rfl)
  | seek2Discard b =>
    have other : (b == Config.magic1) = false := by simpa [Instr.wellFormed] using wf
    exact (word true 1 b).trans (by rw [other]; rfl)
  | lenReject b =>
    have other : (b == Config.len2) = false ∧ (b == Config.len9) = false := by simpa [Instr.wellFormed] using wf
    exact (word true 2 b).trans (by rw [other.1, other.2]; rfl)
  | fillStore b => exact word true 3 b
  | fillCheckOk b => exact word true 7 b
  | fillCheckBad b => exact word false 7 b

theorem decode_encode_arbiterRow {i : Instr} (row : ArbiterRow i) : decode (encode i).1 (encode i).2 = .ok i := by
  cases row <;> rfl

theorem Wheel.hi_append_lo (w : Wheel) : w.hi ++ w.lo = w := by
  refine BitVec.eq_of_getLsbD_eq fun i hi => ?_
  simp only [Wheel.hi, Wheel.lo, BitVec.getLsbD_append, BitVec.getLsbD_extractLsb']
  by_cases low : i < 8
  · simp [low]
  · simp [low, show i - 8 < 8 by omega, show 8 + (i - 8) = i by omega]

theorem decodeSent_velocityBody (left right : Wheel) :
    decodeSent (velocityBody left right) = .ok (.idVelocity left right) := by
  have read : decodeSent (velocityBody left right) =
      .ok (.idVelocity (left.hi ++ left.lo) (right.hi ++ right.lo)) := rfl
  rw [read, Wheel.hi_append_lo, Wheel.hi_append_lo]

theorem decodeSent_batteryBody : decodeSent batteryBody = .ok .idBatteryQuery :=
  if_pos (beq_self_eq_true Config.bq1)

theorem decodeSent_clearEncoder {payload : List Byte} (short : payload.length < 255) :
    decodeSent (0x06 :: payload) = .ok (.idClearEncoder payload) :=
  if_pos short

/-- Settles O59, table by table: only DW's byte and the sent bodies carry operands that the decoder examines. -/
theorem decodeOfEncode : Obligations.DecodeOfEncode := by
  intro i wf
  cases i
  case decIdle | decSeek1Magic | decSeek1Discard | decSeek2Magic | decSeek2Discard | decLenAccept2 | decLenAccept9
      | decLenReject | decFillStore | decFillCheckOk | decFillCheckBad =>
    exact decode_encode_decoderRow (by constructor) wf
  case arbIdleWait | arbClosedNoop | arbGrant | arbSendAbort | arbSendStall | arbSendByte | arbSendLast | arbGapCount
      | arbGapDone | arbBadState =>
    exact decode_encode_arbiterRow (by constructor)
  case idVelocity left right => exact decodeSent_velocityBody left right
  case idBatteryQuery => exact decodeSent_batteryBody
  case idClearEncoder payload => exact decodeSent_clearEncoder (of_decide_eq_true wf)
  case frameByte | csumInit | csumStep | encode | reset | frameLen2 | frameLen9 | idBatteryReport | idResetAck
      | idTimeout => rfl

/-- Settles O60: the decoder evaluates on each word. -/
theorem specWordsDecode : Obligations.SpecWordsDecode :=
  ⟨rfl, rfl, rfl, rfl, rfl, rfl, rfl, rfl, rfl, rfl, rfl⟩

/-! ### The fields of DW and the row it selects (R89, R90) -/

/-- Settles O9 by the row DW selects, which is the decoder's own choice by its state. -/
theorem selectedRowIsStateMachine : Obligations.SelectedRowIsStateMachine := fun s b =>
  ⟨s.dec.select (s.csumOk b) b, decodeDw_word s.dec (s.csumOk b) b, exec_select s b⟩

theorem Dec.word_getLsbD_atLast (d : Dec) (b : Byte) : (d.word b).getLsbD 10 = d.atLast := by
  simp only [Dec.word, BitVec.getLsbD_append]
  simp

theorem Dec.word_extract_code (d : Dec) (b : Byte) : (d.word b).extractLsb' 8 2 = d.st.code := by
  refine BitVec.eq_of_getLsbD_eq fun i hi => ?_
  have high : ¬ 8 + i < 8 := by omega
  simp only [Dec.word, BitVec.getLsbD_extractLsb', BitVec.getLsbD_append, hi, high, if_true, if_false,
    Nat.add_sub_cancel_left, decide_true, Bool.true_and]

/-- Settles O58, a field at a time. -/
theorem decoderWordLayout : Obligations.DecoderWordLayout := by
  intro d b
  refine ⟨BitVec.extractLsb'_append_eq_right, d.word_extract_code b, ?_⟩
  rw [Dec.word_getLsbD_atLast, Dec.atLast, Bool.and_eq_true, beq_iff_eq, beq_iff_eq]

/-! ### The fields of AW and the row it selects (R91) -/

/-- A row of the arbiter's table: mask, match and name. -/
abbrev AwRow := BitVec 7 × BitVec 7 × Instr

/-- The table of R91 in priority order. -/
def arbiterTable : List AwRow :=
  [(0x07, 0x00, .arbIdleWait), (0x0F, 0x04, .arbClosedNoop), (0x0F, 0x0C, .arbGrant), (0x0B, 0x01, .arbSendAbort),
    (0x1B, 0x09, .arbSendStall), (0x3B, 0x19, .arbSendByte), (0x3B, 0x39, .arbSendLast), (0x43, 0x02, .arbGapCount),
    (0x43, 0x42, .arbGapDone), (0x03, 0x03, .arbBadState)]

/-- The rows of a table that match a word. -/
def rowsMatching (w : BitVec 7) (rows : List AwRow) : List AwRow := rows.filter fun r => rowMatches w r.1 r.2.1

/-- The first row of a table that matches a word. -/
def firstRow (w : BitVec 7) (rows : List AwRow) : Except Reject Instr :=
  rows.foldr (fun r later => if rowMatches w r.1 r.2.1 then .ok r.2.2 else later) (.error .otherRow)

theorem decodeAw_eq_firstRow (w : BitVec 7) : decodeAw w = firstRow w arbiterTable := rfl

theorem firstRow_of_rowsMatching {w : BitVec 7} {rows later : List AwRow} {r : AwRow}
    (h : rowsMatching w rows = r :: later) : firstRow w rows = .ok r.2.2 := by
  induction rows with
  | nil => cases h
  | cons row rows ih =>
    cases hit : rowMatches w row.1 row.2.1 with
    | true =>
      simp only [rowsMatching, List.filter, hit] at h
      cases h
      exact if_pos hit
    | false =>
      simp only [rowsMatching, List.filter, hit] at h
      exact (if_neg (Bool.eq_false_iff.mp hit)).trans (ih h)

theorem rowsMatching_arbiterTable_length (w : BitVec 7) : (rowsMatching w arbiterTable).length = 1 := by
  revert w
  decide

theorem State.arbWord_fields (s : State) :
    s.arbWord.extractLsb' 0 2 = s.arb.st.code ∧ s.arbWord.getLsbD 2 = !s.pending.isEmpty ∧
      s.arbWord.getLsbD 3 = s.inp.txOpen ∧ s.arbWord.getLsbD 4 = s.inp.txReady ∧
      s.arbWord.getLsbD 5 = s.arb.atEnd ∧ s.arbWord.getLsbD 6 = s.arb.gapLast := by
  refine ⟨BitVec.extractLsb'_append_eq_right, ?_⟩
  simp only [State.arbWord, BitVec.getLsbD_append]
  simp

/-- Settles O27: each word matches one row of the table, so the first row that matches is that one. -/
theorem arbiterRowsPartition : Obligations.ArbiterRowsPartition := by
  refine ⟨fun s => ?fields, fun w => ?rows⟩
  case fields =>
    obtain ⟨code, pending, isOpen, ready, atEnd, gapLast⟩ := s.arbWord_fields
    rw [pending, atEnd, gapLast]
    exact ⟨code, by simp, isOpen, ready, beq_iff_eq, beq_iff_eq⟩
  case rows =>
    obtain ⟨r, only⟩ := List.length_eq_one_iff.mp (rowsMatching_arbiterTable_length w)
    exact ⟨r, only, firstRow_of_rowsMatching only⟩

/-! ### Feeding bytes in order (R63, R86) -/

theorem forAll_append {α : Type} (f : α → State → Result) (xs ys : List α) (s : State) :
    forAll f (xs ++ ys) s = andThen (forAll f xs s) (forAll f ys) := by
  induction xs generalizing s with
  | nil => rfl
  | cons x xs ih =>
    rw [List.cons_append, forAll_cons, forAll_cons]
    cases f x s with
    | next t => exact ih t
    | fault | refused => rfl

theorem feedAll_cons_of_next {s t : State} {b : Byte} (h : feed b s = .next t) (rest : List Byte) :
    feedAll (b :: rest) s = feedAll rest t :=
  congrArg (andThen · (feedAll rest)) h

theorem feedAll_append_of_next {s t : State} {xs : List Byte} (h : feedAll xs s = .next t) (ys : List Byte) :
    feedAll (xs ++ ys) s = feedAll ys t :=
  (forAll_append feed xs ys s).trans (congrArg (andThen · (feedAll ys)) h)

theorem OnlyDecoder.refl (s : State) : OnlyDecoder s s := ⟨rfl, rfl, rfl, rfl, rfl, rfl⟩

theorem OnlyDecoder.trans {s t u : State} (h : OnlyDecoder s t) (k : OnlyDecoder t u) : OnlyDecoder s u := by
  obtain ⟨cfg, arb, tx, inp, env, tick⟩ := h
  obtain ⟨cfg', arb', tx', inp', env', tick'⟩ := k
  exact ⟨cfg'.trans cfg, arb'.trans arb, tx'.trans tx, inp'.trans inp, env'.trans env, tick'.trans tick⟩

/-- R16: a byte runs one of the decoder's rows. -/
theorem feed_onlyDecoder {s t : State} {b : Byte} (h : feed b s = .next t) : OnlyDecoder s t :=
  exec_decoderRow_onlyDecoder (decodeDw_decoderRow (decodeDw_word s.dec (s.csumOk b) b)) ((exec_select s b).trans h)

theorem feedAll_onlyDecoder {s t : State} {bytes : List Byte} (h : feedAll bytes s = .next t) : OnlyDecoder s t :=
  forAll_keeps OnlyDecoder feed bytes OnlyDecoder.refl (fun _ _ _ => OnlyDecoder.trans)
    (fun _ _ _ _ => feed_onlyDecoder) s t h

/-! ### Bytes are taken in every state of the decoder's invariant (R122) -/

theorem Dec.Inv.dsize_le {d : Dec} (inv : Dec.Inv d) (st : d.st = .fill) : d.dsize ≤ Config.maxFrame := by
  rw [Dec.dsize]
  rcases inv.length st with h | h <;> rw [h] <;> decide

/-- Only FILL can fault, and there the invariant keeps the cursor and the checksum slot inside the buffer. -/
theorem feed_of_decInv {s : State} (inv : Dec.Inv s.dec) (b : Byte) : ∃ t, feed b s = .next t ∧ Dec.Inv t.dec := by
  have taken : ∃ t, feed b s = .next t := by
    cases st : s.dec.st with
    | s1 | s2 | rl =>
      simp only [feed, st]
      repeat' split
      all_goals exact ⟨_, rfl⟩
    | fill =>
      have size := inv.dsize_le st
      obtain ⟨-, inFrame⟩ := inv.cursor st
      have inside : s.dec.cur.toNat < Config.maxFrame := by omega
      simp only [feed, st, execDecFillCheckOk, execDecFillCheckBad, execDecFillStore, if_pos size, if_pos inside]
      repeat' split
      all_goals exact ⟨_, rfl⟩
  obtain ⟨t, h⟩ := taken
  exact ⟨t, h, (feedEdge_of_feed h).keeps_decInv inv⟩

theorem feedAll_of_decInv {s : State} (inv : Dec.Inv s.dec) (bytes : List Byte) :
    ∃ t, feedAll bytes s = .next t ∧ Dec.Inv t.dec := by
  induction bytes generalizing s with
  | nil => exact ⟨s, rfl, inv⟩
  | cons b rest ih =>
    obtain ⟨u, hu, invU⟩ := feed_of_decInv inv b
    rw [feedAll_cons_of_next hu]
    exact ih invU

/-- Settles O16: a frame row feeds bytes, and bytes are taken. -/
theorem framesTakenAnywhere : Obligations.FramesTakenAnywhere := by
  intro s inv
  have taken : ∀ frame : List Byte, ∃ t, feedAll frame s = .next t ∧ Dec.Inv t.dec ∧ OnlyDecoder s t := by
    intro frame
    obtain ⟨t, h, keeps⟩ := feedAll_of_decInv inv frame
    exact ⟨t, h, keeps, feedAll_onlyDecoder h⟩
  exact ⟨fun _ _ _ _ => taken _, fun _ _ _ _ _ _ _ _ _ _ _ => taken _⟩

/-! ### A frame from SeekFirstMagic (R111 to R120) -/

/-- In `t`, in FILL, the decoder has taken the first bytes of a frame with the length byte `len`: they lie in the buffer
over what `s` had there. -/
structure Filling (s : State) (len : Byte) (bytes : List Byte) (t : State) : Prop where
  st : t.dec.st = .fill
  dlen : t.dec.dlen = len
  cur : t.dec.cur.toNat = bytes.length
  buf : ∀ k, Memory.get t.dec.buf k = (bytes[k]?).or (Memory.get s.dec.buf k)
  tick : t.tick = s.tick

/-- In `t` the decoder has taken a whole frame and emitted its event. -/
structure FrameTaken (s : State) (id seq : Byte) (payload : List Byte) (c : Byte) (t : State) : Prop where
  st : t.dec.st = .s1
  valid : t.ev.valid = true
  buf : ∀ k, t.bufAt k = ((frameHead (id :: payload) seq ++ [c])[k]?).getD (s.bufAt k)
  event : if c = xorReduce (frameHead (id :: payload) seq) then
      t.ev.kind = .ready ∧ t.ev.id = id ∧ t.ev.seq = seq ∧ t.eventBytes = payload
    else t.ev.kind = .mismatch ∧ t.ev.id = 0 ∧ t.ev.seq = 0 ∧ t.eventBytes = frameHead (id :: payload) seq ++ [c]

/-- The observed list of an event is what was emitted (R29, R31). -/
theorem State.eventBytes_emit (s : State) (kind : EvKind) (id seq : Byte) {bytes : List Byte}
    (short : bytes.length ≤ Config.maxFrame) : (s.emit kind id seq bytes).eventBytes = bytes :=
  (Memory.slice_listsFirst _ _ _ _ (s.emit_listed kind id seq short)).trans (Memory.bytes_fromList 0 bytes)

/-- A byte appended to a list that lies over an array is a byte written behind the list. -/
theorem getElem?_append_singleton_or (bytes : List Byte) (b : Byte) (k : Nat) (old : Option Byte) :
    ((bytes ++ [b])[k]?).or old = if k = bytes.length then some b else (bytes[k]?).or old := by
  rcases Nat.lt_trichotomy k bytes.length with before | here | behind
  · simp [List.getElem?_append_left before, before.ne]
  · simp [here]
  · have past : (bytes ++ [b]).length ≤ k := by simpa using behind
    rw [List.getElem?_eq_none past, List.getElem?_eq_none behind.le, if_neg behind.ne']

theorem feedAll_header {s : State} (st : s.dec.st = .s1) {len : Byte}
    (listed : len = Config.len2 ∨ len = Config.len9) :
    ∃ t, feedAll [Config.magic0, Config.magic1, len] s = .next t ∧
      Filling s len [Config.magic0, Config.magic1, len] t := by
  have first : feed Config.magic0 s = .next (s.goto .s2).noEmit := by simp [feed, st, execDecSeek1Magic]
  have second : feed Config.magic1 (s.goto .s2).noEmit = .next ((s.goto .s2).noEmit.goto .rl).noEmit := rfl
  have third : feed len ((s.goto .s2).noEmit.goto .rl).noEmit =
      .next (((s.goto .s2).noEmit.goto .rl).noEmit.acceptLen len).noEmit := by
    rcases listed with rfl | rfl <;> rfl
  rw [feedAll_cons_of_next first, feedAll_cons_of_next second, feedAll_cons_of_next third]
  refine ⟨_, rfl, rfl, rfl, rfl, fun k => ?_, rfl⟩
  simp only [State.noEmit_dec, State.acceptLen_dec, State.goto_dec, Memory.get_put]
  match k with
  | 0 | 1 | 2 => rfl
  | k + 3 => simp

section
variable {s t : State} {len : Byte} {bytes : List Byte}

theorem Filling.bufAt (h : Filling s len bytes t) (k : Nat) : t.bufAt k = (bytes[k]?).getD (s.bufAt k) := by
  simp only [State.bufAt, Memory.read, h.buf, h.tick, Option.getD_or]

theorem Filling.bufSlice (h : Filling s len bytes t) (lo n : Nat) (inside : lo + n ≤ bytes.length) :
    t.bufSlice lo n = (bytes.drop lo).take n := by
  refine List.ext_getElem (by simp; omega) fun k hk _ => ?_
  rw [State.bufSlice_length] at hk
  have slot : t.bufAt (lo + k) = bytes[lo + k] := by simp [h.bufAt, show lo + k < bytes.length by omega]
  rw [List.getElem_take, List.getElem_drop, ← slot]
  simp [State.bufSlice, Memory.slice, State.bufAt]

/-- A byte written at the cursor lies over the array as a byte appended to those taken. -/
theorem Filling.get_put (h : Filling s len bytes t) (b : Byte) (k : Nat) :
    Memory.get (Memory.put t.dec.buf bytes.length b) k = ((bytes ++ [b])[k]?).or (Memory.get s.dec.buf k) := by
  rw [Memory.get_put, getElem?_append_singleton_or, h.buf]

theorem Filling.feed_store (h : Filling s len bytes t) (short : len.toNat ≤ 9) (room : bytes.length < len.toNat + 4)
    (b : Byte) : ∃ u, feed b t = .next u ∧ Filling s len (bytes ++ [b]) u := by
  have notLast : (bytes.length == t.dec.dsize - 1) = false := by
    simp only [Dec.dsize, h.dlen, beq_eq_false_iff_ne]
    omega
  have inside : bytes.length < Config.maxFrame := by
    simp only [Config.maxFrame]
    omega
  have stored : feed b t = .next (((t.bufWrite bytes.length b).setDec { (t.bufWrite bytes.length b).dec with
      cur := t.dec.cur + 1, st := .fill }).noEmit) := by
    simp only [feed, h.st, h.cur, notLast, execDecFillStore, if_pos inside]
    rfl
  have cursor : (t.dec.cur + 1).toNat = (bytes ++ [b]).length := by
    have cur := h.cur
    simp only [Config.maxFrame] at inside
    simp only [List.length_append, List.length_singleton]
    bv_omega
  exact ⟨_, stored, rfl, h.dlen, cursor, h.get_put b, h.tick⟩

theorem Filling.feedAll_store (h : Filling s len bytes t) (short : len.toNat ≤ 9) (more : List Byte)
    (room : bytes.length + more.length ≤ len.toNat + 4) :
    ∃ u, feedAll more t = .next u ∧ Filling s len (bytes ++ more) u := by
  induction more generalizing bytes t with
  | nil => exact ⟨t, rfl, by simpa using h⟩
  | cons b rest ih =>
    rw [List.length_cons] at room
    obtain ⟨u, hu, fillU⟩ := h.feed_store short (by omega) b
    rw [feedAll_cons_of_next hu, List.append_cons]
    exact ih fillU (by simp; omega)

end

/-! The checksum slot: the frame but for its last byte is in the buffer. -/

section
variable {s t : State} {len id seq : Byte} {payload : List Byte} (h : Filling s len (frameHead (id :: payload) seq) t)
  (size : len.toNat = payload.length + 1)
include h size

theorem Filling.dsize : t.dec.dsize = payload.length + 6 := by
  rw [Dec.dsize, h.dlen, size]

theorem Filling.bufSlice_head : t.bufSlice 0 (t.dec.dsize - 1) = frameHead (id :: payload) seq := by
  have whole : (frameHead (id :: payload) seq).length = t.dec.dsize - 1 := by
    rw [frameHead_length, h.dsize size, List.length_cons]
    rfl
  rw [h.bufSlice 0 _ (by omega), ← whole]
  exact List.take_length

theorem Filling.bufSlice_payload : t.bufSlice 5 (t.dec.dsize - 6) = payload := by
  rw [h.dsize size, h.bufSlice 5 _ (by simp; omega)]
  exact List.take_length

theorem Filling.csumOk (c : Byte) : t.csumOk c = (c == xorReduce (frameHead (id :: payload) seq)) := by
  rw [State.csumOk, State.bufXor, h.bufSlice_head size]

theorem Filling.bufAt_bufWrite_last (c : Byte) (k : Nat) :
    (t.bufWrite (t.dec.dsize - 1) c).bufAt k = ((frameHead (id :: payload) seq ++ [c])[k]?).getD (s.bufAt k) := by
  have slot := h.get_put c k
  rw [frameHead_length] at slot
  rw [State.bufAt, Memory.read, h.dsize size]
  refine (congrArg (Option.getD · _) slot).trans ?_
  rw [Option.getD_or, State.bufWrite_tick, h.tick]
  rfl

theorem Filling.feed_last (short : payload.length ≤ 8) (c : Byte) :
    ∃ u, feed c t = .next u ∧ FrameTaken s id seq payload c u := by
  have dsize := h.dsize size
  have inside : t.dec.dsize ≤ Config.maxFrame := by
    simp only [dsize, Config.maxFrame]
    omega
  have last : (t.dec.cur.toNat == t.dec.dsize - 1) = true := by
    rw [h.cur, dsize]
    simp
  by_cases ok : c = xorReduce (frameHead (id :: payload) seq)
  · have hit : t.csumOk c = true := (h.csumOk size c).trans (beq_iff_eq.mpr ok)
    have hid : t.bufAt 4 = id := h.bufAt 4
    have hseq : t.bufAt 3 = seq := h.bufAt 3
    have taken : feed c t = .next ((t.bufWrite (t.dec.dsize - 1) c).resync.emit .ready id seq payload) := by
      simp only [feed, h.st, last, hit, execDecFillCheckOk, if_pos inside, h.bufSlice_payload size, hid, hseq, if_true]
    refine ⟨_, taken, rfl, rfl, h.bufAt_bufWrite_last size c, ?_⟩
    rw [if_pos ok]
    exact ⟨rfl, rfl, rfl, State.eventBytes_emit _ _ _ _ (short.trans (by decide))⟩
  · have miss : t.csumOk c = false := (h.csumOk size c).trans (beq_eq_false_iff_ne.mpr ok)
    have taken : feed c t = .next ((t.bufWrite (t.dec.dsize - 1) c).resync.emit .mismatch 0 0
        (frameHead (id :: payload) seq ++ [c])) := by
      simp only [feed, h.st, last, miss, execDecFillCheckBad, if_pos inside, h.bufSlice_head size, if_true]
      rfl
    refine ⟨_, taken, rfl, rfl, h.bufAt_bufWrite_last size c, ?_⟩
    rw [if_neg ok]
    exact ⟨rfl, rfl, rfl, State.eventBytes_emit _ _ _ _ (by simp [Config.maxFrame]; omega)⟩

end

/-- A frame of an accepted length is its header, then the bytes up to the checksum slot, then the checksum byte. -/
theorem feedAll_frame {s : State} (st : s.dec.st = .s1) (id seq : Byte) {payload : List Byte}
    (accepted : payload.length = 1 ∨ payload.length = 8) (c : Byte) :
    ∃ t, feedAll (frameHead (id :: payload) seq ++ [c]) s = .next t ∧ FrameTaken s id seq payload c t := by
  obtain ⟨len, hlen⟩ : ∃ len : Byte, len = BitVec.ofNat 8 (id :: payload).length := ⟨_, rfl⟩
  have listed : len = Config.len2 ∨ len = Config.len9 := by
    rcases accepted with n | n <;> simp [hlen, n, Config.len2, Config.len9]
  have size : len.toNat = payload.length + 1 := by
    rcases accepted with n | n <;> simp [hlen, n]
  have head : frameHead (id :: payload) seq = [Config.magic0, Config.magic1, len] ++ (seq :: id :: payload) := by
    rw [hlen]
    rfl
  obtain ⟨u, hu, header⟩ := feedAll_header st listed
  obtain ⟨v, hv, stored⟩ := header.feedAll_store (by omega) (seq :: id :: payload) (by simp; omega)
  rw [← head] at stored
  obtain ⟨t, ht, taken⟩ := stored.feed_last size (by omega) c
  refine ⟨t, ?_, taken⟩
  rw [head, List.append_assoc, feedAll_append_of_next hu, feedAll_append_of_next hv, feedAll_cons_of_next ht]
  rfl

/-- Settles O14: the frame of the body `[id, p]`. -/
theorem frameLen2Received : Obligations.FrameLen2Received := by
  intro s seq id p c st
  obtain ⟨t, runs, taken⟩ := feedAll_frame st id seq (payload := [p]) (.inl rfl) c
  refine ⟨t, runs, taken.st, feedAll_onlyDecoder runs, taken.valid, ?_, fun k hk => ?_, taken.event⟩
  · simp only [taken.buf]
    rfl
  · rw [taken.buf, List.getElem?_eq_none hk]
    rfl

/-- Settles O15: the frame of a body of nine bytes. -/
theorem frameLen9Received : Obligations.FrameLen9Received := by
  intro s seq id p0 p1 p2 p3 p4 p5 p6 p7 c st
  obtain ⟨t, runs, taken⟩ := feedAll_frame st id seq (payload := [p0, p1, p2, p3, p4, p5, p6, p7]) (.inr rfl) c
  refine ⟨t, runs, taken.st, feedAll_onlyDecoder runs, taken.valid, ?_, fun k hk => ?_, taken.event⟩
  · rw [funext taken.buf]
    rfl
  · rw [taken.buf, List.getElem?_eq_none hk]
    rfl

/-! ### The ID rows (R92 to R97) -/

theorem State.setEnv_onlyHost (s : State) (e : Env) : OnlyHost s (s.setEnv e) := ⟨rfl, rfl, rfl, rfl, rfl, rfl, rfl⟩

/-- Settles O51: the three rows enqueue their bodies. -/
theorem sentIdRows : Obligations.SentIdRows := by
  intro s l
  refine ⟨fun left right lane => ?velocity, fun lane => ?battery, fun payload lane => ?clearEncoder⟩
  case velocity => exact ⟨_, s.enqueue_next velocityPort _ l lane, s.setEnv_onlyHost _, rfl⟩
  case battery => exact ⟨_, s.enqueue_next batteryPort _ l lane, s.setEnv_onlyHost _, rfl⟩
  case clearEncoder => exact ⟨_, s.enqueue_next guiPort _ l lane, s.setEnv_onlyHost _, rfl⟩

/-- Settles O52: each row makes the consumer's call, and the timeout enqueues the reset send after it. -/
theorem receivedIdRows : Obligations.ReceivedIdRows := by
  intro s
  refine ⟨⟨_, rfl, s.setEnv_onlyHost _, rfl⟩, ⟨_, rfl, s.setEnv_onlyHost _, rfl⟩, fun l lane => ?timeout⟩
  case timeout =>
    exact ⟨_, State.enqueue_next ((s.call s.decodedCall).actAs .gui) guiPort _ l lane, s.setEnv_onlyHost _, rfl⟩

end Sys2Proof.Machine

/-! PROOFS. The decoder (40_decoder.md): which row each byte selects in each state, and what the row does. -/

namespace Sys2Proof.Machine

/-! ### The row DW selects, state by state (R89, R90) -/

theorem Dec.word_of_not_fill {d : Dec} (st : d.st ≠ .fill) (b : Byte) :
    d.word b = BitVec.ofBool false ++ d.st.code ++ b := by
  rw [Dec.word, Dec.atLast_of_not_fill st]

theorem Dec.select_cases (d : Dec) (csumOk : Bool) (b : Byte) :
    d.select csumOk b = .decSeek1Magic ∨ d.select csumOk b = .decSeek1Discard b ∨ d.select csumOk b = .decSeek2Magic ∨
      d.select csumOk b = .decSeek2Discard b ∨ d.select csumOk b = .decLenAccept2 ∨
      d.select csumOk b = .decLenAccept9 ∨ d.select csumOk b = .decLenReject b ∨
      d.select csumOk b = .decFillStore b ∨ d.select csumOk b = .decFillCheckOk b ∨
      d.select csumOk b = .decFillCheckBad b := by
  unfold Dec.select
  repeat' split
  all_goals simp

section
variable {d : Dec} {b : Byte}

theorem decodeDw_seekFirst_magic (st : d.st = .s1) (ok : Bool) :
    decodeDw ok (d.word Config.magic0) = .ok .decSeek1Magic := by
  simp [decodeDw_word, Dec.select, st]

theorem decodeDw_seekFirst_discard (st : d.st = .s1) (other : b ≠ Config.magic0) (ok : Bool) :
    decodeDw ok (d.word b) = .ok (.decSeek1Discard b) := by
  simp [decodeDw_word, Dec.select, st, other]

theorem decodeDw_seekSecond_magic (st : d.st = .s2) (ok : Bool) :
    decodeDw ok (d.word Config.magic1) = .ok .decSeek2Magic := by
  simp [decodeDw_word, Dec.select, st]

theorem decodeDw_seekSecond_discard (st : d.st = .s2) (other : b ≠ Config.magic1) (ok : Bool) :
    decodeDw ok (d.word b) = .ok (.decSeek2Discard b) := by
  simp [decodeDw_word, Dec.select, st, other]

theorem decodeDw_length_two (st : d.st = .rl) (ok : Bool) :
    decodeDw ok (d.word Config.len2) = .ok .decLenAccept2 := by
  simp [decodeDw_word, Dec.select, st]

theorem decodeDw_length_nine (st : d.st = .rl) (ok : Bool) :
    decodeDw ok (d.word Config.len9) = .ok .decLenAccept9 := by
  simp [decodeDw_word, Dec.select, st, Config.len2, Config.len9]

theorem decodeDw_length_reject (st : d.st = .rl) (not2 : b ≠ Config.len2) (not9 : b ≠ Config.len9) (ok : Bool) :
    decodeDw ok (d.word b) = .ok (.decLenReject b) := by
  simp [decodeDw_word, Dec.select, st, not2, not9]

theorem decodeDw_fill_store (st : d.st = .fill) (notLast : d.cur.toNat ≠ d.dsize - 1) (ok : Bool) :
    decodeDw ok (d.word b) = .ok (.decFillStore b) := by
  simp [decodeDw_word, Dec.select, st, notLast]

theorem decodeDw_fill_check (st : d.st = .fill) (last : d.cur.toNat = d.dsize - 1) (ok : Bool) :
    decodeDw ok (d.word b) = .ok (if ok then .decFillCheckOk b else .decFillCheckBad b) := by
  simp [decodeDw_word, Dec.select, st, last]

end

/-! ### What the rows of FILL do (R118 to R120) -/

section
variable {s : State} {b : Byte}

theorem exec_fillStore (inside : s.dec.cur.toNat < Config.maxFrame) :
    exec (.decFillStore b) s = .next ((s.bufWrite s.dec.cur.toNat b).setDec
      { s.dec with buf := Memory.put s.dec.buf s.dec.cur.toNat b, cur := s.dec.cur + 1, st := .fill }).noEmit :=
  if_pos inside

theorem exec_fillCheckOk (inside : s.dec.dsize ≤ Config.maxFrame) (ok : s.csumOk b = true) :
    exec (.decFillCheckOk b) s = .next ((s.bufWrite (s.dec.dsize - 1) b).resync.emit .ready (s.bufAt 4) (s.bufAt 3)
      (s.bufSlice 5 (s.dec.dsize - 6))) :=
  (if_pos inside).trans (if_pos ok)

theorem exec_fillCheckBad (inside : s.dec.dsize ≤ Config.maxFrame) (bad : s.csumOk b = false) :
    exec (.decFillCheckBad b) s = .next ((s.bufWrite (s.dec.dsize - 1) b).resync.emit .mismatch 0x00 0x00
      (s.bufSlice 0 (s.dec.dsize - 1) ++ [b])) :=
  (if_pos inside).trans (if_neg (Bool.eq_false_iff.mp bad))

theorem State.csumOk_iff : s.csumOk b = true ↔ b = xorReduce (s.bufSlice 0 (s.dec.dsize - 1)) := beq_iff_eq

theorem State.bufAt_bufWrite_same (k : Nat) : (s.bufWrite k b).bufAt k = b := Memory.read_put_same _ _ _ k b

theorem State.bufAt_bufWrite_other {k j : Nat} (h : j ≠ k) : (s.bufWrite k b).bufAt j = s.bufAt j :=
  Memory.read_put_other _ _ _ k j b h

end

theorem State.eventBytes_length (s : State) : s.eventBytes.length = s.ev.len.toNat := by
  simp [State.eventBytes, Memory.slice]

/-! ### The bytes the decoder takes without an event -/

section
variable {s : State} {b : Byte}

theorem feed_seekFirst_magic (st : s.dec.st = .s1) : feed Config.magic0 s = .next (s.goto .s2).noEmit := by
  simp [feed, st, execDecSeek1Magic]

theorem State.resync_of_seekFirst (st : s.dec.st = .s1) : s.resync = s := by
  rw [State.resync, State.goto, ← st]
  rfl

/-- In SeekFirstMagic a byte that is not MAGIC0 does what an idle cycle does. -/
theorem feed_seekFirst_discard (st : s.dec.st = .s1) (other : b ≠ Config.magic0) : feed b s = .next s.noEmit := by
  have held : s.goto .s1 = s := State.resync_of_seekFirst st
  simp [feed, st, other, execDecSeek1Discard, held]

theorem feed_seekSecond_magic (st : s.dec.st = .s2) : feed Config.magic1 s = .next (s.goto .rl).noEmit := by
  simp [feed, st, execDecSeek2Magic]

theorem feed_seekSecond_discard (st : s.dec.st = .s2) (other : b ≠ Config.magic1) :
    feed b s = .next s.resync.noEmit := by
  simp [feed, st, other, execDecSeek2Discard]

theorem feed_length_accept (st : s.dec.st = .rl) (listed : b = Config.len2 ∨ b = Config.len9) :
    feed b s = .next (s.acceptLen b).noEmit := by
  simp only [feed, st]
  rcases listed with rfl | rfl <;> rfl

theorem feed_length_reject (st : s.dec.st = .rl) (not2 : b ≠ Config.len2) (not9 : b ≠ Config.len9) :
    feed b s = .next s.resync.noEmit := by
  simp [feed, st, not2, not9, execDecLenReject]

end

/-! ### The checksum slot (R89, R119, R120) -/

theorem Dec.select_check_iff (d : Dec) (csumOk : Bool) (b : Byte) :
    d.select csumOk b = .decFillCheckOk b ∨ d.select csumOk b = .decFillCheckBad b ↔ d.atLast = true := by
  cases st : d.st with
  | s1 | s2 | rl =>
    rw [Dec.atLast_of_not_fill (st ▸ nofun), Dec.select, st]
    dsimp only
    repeat' split
    all_goals simp
  | fill =>
    rw [Dec.atLast_of_fill st, Dec.select, st]
    cases d.cur.toNat == d.dsize - 1 <;> cases csumOk <;> simp

/-- An event comes at the checksum slot and nowhere else. -/
theorem FeedEdge.valid_iff {s : State} {b : Byte} {d : Dec} {e : Ev} (h : FeedEdge s b d e) :
    e.valid = true ↔ s.dec.atLast = true := by
  cases slot : s.dec.atLast with
  | false => rw [h.noEvent slot]; exact Iff.rfl
  | true =>
    obtain ⟨st, last⟩ := Bool.and_eq_true_iff.mp slot
    cases h with
    | seek next notFill => exact absurd (beq_iff_eq.mp st) notFill
    | accept reading => rw [reading] at st; cases st
    | store filling notLast => exact absurd (beq_iff_eq.mp last) notLast
    | ready | mismatch => exact ⟨fun _ => rfl, fun _ => rfl⟩

/-! ### The rows (R110 to R121) -/

/-- Settles O1: with a byte the row is the decoder's choice by its state, and a selected row does what `feed` does. -/
theorem feedBeatSelectsOneRow : Obligations.FeedBeatSelectsOneRow := by
  intro s
  refine ⟨fun idle => ⟨?_, s.noEmit, rfl, rfl, rfl, exec_decoderRow_onlyDecoder .idle rfl⟩, fun byte => ?_⟩
  · simp [State.decRow, idle, decodeRxValid]
  · have selected := decodeDw_word s.dec (s.csumOk s.inp.rxData) s.inp.rxData
    refine ⟨_, by rw [State.decRow, byte, if_pos rfl, selected], selected, s.dec.select_cases _ _, fun t run => ?_⟩
    rw [exec_select] at run
    rw [Dec.select_check_iff, (feedEdge_of_feed run).valid_iff]

/-- Settles O2: outside FILL DW's high bit is 0, and the rows are those of SeekFirstMagic. -/
theorem seekFirstMagicRows : Obligations.SeekFirstMagicRows := by
  intro s st
  refine ⟨⟨?_, decodeDw_seekFirst_magic st, _, rfl, rfl, rfl, exec_decoderRow_onlyDecoder .seek1Magic rfl⟩,
    fun b other => ⟨decodeDw_seekFirst_discard st other, _, rfl, ?_, rfl,
      exec_decoderRow_onlyDecoder (.seek1Discard b) rfl⟩⟩
  · rw [Dec.word_of_not_fill (st ▸ nofun), st]
    rfl
  · rw [State.noEmit_dec, State.goto_dec, ← st]

/-- Settles O3: a discarded byte leads to SeekFirstMagic, where 0xAA is discarded. -/
theorem seekSecondMagicRows : Obligations.SeekSecondMagicRows := by
  intro s st
  refine ⟨⟨?_, decodeDw_seekSecond_magic st, _, rfl, rfl, rfl, exec_decoderRow_onlyDecoder .seek2Magic rfl⟩,
    fun b other => ⟨decodeDw_seekSecond_discard st other, _, rfl, rfl, rfl,
      exec_decoderRow_onlyDecoder (.seek2Discard b) rfl, _, rfl, rfl⟩⟩
  rw [Dec.word_of_not_fill (st ▸ nofun), st]
  rfl

/-- Settles O5: 0xAA and 0x02 are discarded in SeekFirstMagic. -/
theorem lengthRejectRow : Obligations.LengthRejectRow := fun _ b st not2 not9 =>
  ⟨decodeDw_length_reject st not2 not9, _, rfl, rfl, rfl, exec_decoderRow_onlyDecoder (.lenReject b) rfl, _, rfl, rfl⟩

/-- Settles O4: the three entries written are the header. -/
theorem lengthAcceptRows : Obligations.LengthAcceptRows := by
  intro s st
  have stale : ∀ len k, 3 ≤ k → (s.acceptLen len).noEmit.bufAt k = s.bufAt k := by
    intro len k hk
    have h0 : k ≠ 0 := by omega
    have h1 : k ≠ 1 := by omega
    have h2 : k ≠ 2 := by omega
    simp [State.bufAt, Memory.read, h0, h1, h2]
  have header : ∀ len, (s.acceptLen len).noEmit.bufAt 0 = Config.magic0 ∧
      (s.acceptLen len).noEmit.bufAt 1 = Config.magic1 ∧ (s.acceptLen len).noEmit.bufAt 2 = len := by
    simp [State.bufAt, Memory.read]
  obtain ⟨two0, two1, two2⟩ := header Config.len2
  obtain ⟨nine0, nine1, nine2⟩ := header Config.len9
  refine ⟨⟨?_, decodeDw_length_two st, _, rfl, rfl, rfl, rfl, rfl, two0, two1, two2, stale _, rfl,
      exec_decoderRow_onlyDecoder .lenAccept2 rfl⟩,
    ?_, decodeDw_length_nine st, _, rfl, rfl, rfl, rfl, rfl, nine0, nine1, nine2, stale _, rfl,
      exec_decoderRow_onlyDecoder .lenAccept9 rfl⟩
  all_goals
    rw [Dec.word_of_not_fill (st ▸ nofun), st]
    rfl

/-- Settles O6: one entry is written, the one at the cursor. -/
theorem fillStoreRow : Obligations.FillStoreRow := by
  intro s b st before inside
  have run := exec_fillStore (b := b) inside
  refine ⟨decodeDw_fill_store st (by omega), _, run, rfl, rfl, ?_, State.bufAt_bufWrite_same _,
    fun k hk => State.bufAt_bufWrite_other hk, rfl, exec_decoderRow_onlyDecoder (.fillStore b) run⟩
  simp only [State.noEmit_dec, State.setDec_dec]
  bv_omega

/-- Settles O7: the checksum condition holds at the slot. -/
theorem fillCheckOkRow : Obligations.FillCheckOkRow := by
  intro s b st last inside right
  have ok := State.csumOk_iff.mpr right
  have run := exec_fillCheckOk inside ok
  have payload : s.dec.dsize - 6 = s.dec.dlen.toNat - 1 := by
    simp only [Dec.dsize]
    omega
  have emitted := State.eventBytes_emit (s.bufWrite (s.dec.dsize - 1) b).resync .ready (s.bufAt 4) (s.bufAt 3)
    (bytes := s.bufSlice 5 (s.dec.dsize - 6)) (by rw [State.bufSlice_length]; exact (Nat.sub_le _ _).trans inside)
  have row := decodeDw_fill_check (b := b) st (by omega) true
  refine ⟨ok ▸ row, _, run, rfl, rfl, rfl, State.bufAt_bufWrite_same _, fun k hk => State.bufAt_bufWrite_other hk, rfl,
    rfl, rfl, rfl, ?_, payload ▸ emitted, exec_decoderRow_onlyDecoder (.fillCheckOk b) run⟩
  rw [← State.eventBytes_length, emitted, State.bufSlice_length, payload]

/-- Settles O8: the checksum condition fails at the slot. -/
theorem fillCheckBadRow : Obligations.FillCheckBadRow := by
  intro s b st last inside wrong
  have bad := Bool.eq_false_iff.mpr (mt State.csumOk_iff.mp wrong)
  have run := exec_fillCheckBad inside bad
  have size : (s.bufSlice 0 (s.dec.dsize - 1) ++ [b]).length = s.dec.dlen.toNat + 5 := by
    rw [List.length_append, State.bufSlice_length]
    rfl
  have emitted := State.eventBytes_emit (s.bufWrite (s.dec.dsize - 1) b).resync .mismatch 0x00 0x00
    (bytes := s.bufSlice 0 (s.dec.dsize - 1) ++ [b]) (size.trans_le inside)
  have row := decodeDw_fill_check (b := b) st (by omega) false
  refine ⟨bad ▸ row, _, run, rfl, rfl, rfl, State.bufAt_bufWrite_same _, fun k hk => State.bufAt_bufWrite_other hk, rfl,
    rfl, rfl, rfl, ?_, emitted, exec_decoderRow_onlyDecoder (.fillCheckBad b) run⟩
  rw [← State.eventBytes_length, emitted, size]

/-- Settles O10: the XOR of the whole frame is that of its bytes before the checksum slot, and the checksum byte. -/
theorem acceptedIffXorZero : Obligations.AcceptedIffXorZero := by
  intro s b st last
  have accepted : decodeDw (s.csumOk b) (s.dec.word b) = .ok (.decFillCheckOk b) ↔ s.csumOk b = true := by
    rw [decodeDw_fill_check st (by omega)]
    cases s.csumOk b <;> simp
  have whole : xorReduce (s.bufSlice 0 (s.dec.dsize - 1) ++ [b]) = xorReduce (s.bufSlice 0 (s.dec.dsize - 1)) ^^^ b := by
    simp
  rw [accepted, State.csumOk_iff, whole, eq_comm]
  exact BitVec.xor_eq_zero_iff.symm

end Sys2Proof.Machine

/-! PROOFS. Sequences of receive cycles (R69, R122 to R129): idle cycles, how far the decoder is from SeekFirstMagic and
from its next event, and the events of the frames that follow an anomaly. -/

namespace Sys2Proof.Machine

/-! ### Idle cycles (R110, R123) -/

@[simp] theorem State.event_noEmit (s : State) : s.noEmit.event = none := rfl

theorem State.event_of_not_valid {s : State} (h : s.ev.valid = false) : s.event = none := by
  simp [State.event, h]

/-- The decoder reads no event register. -/
theorem feed_noEmit (b : Byte) (s : State) : feed b s.noEmit = feed b s := by
  rw [feed, feed, State.noEmit_dec]
  cases s.dec.st with
  | s1 | s2 | rl | fill => rfl

theorem feedBeat_noEmit (rx : Option Byte) (s : State) : feedBeat rx s.noEmit = feedBeat rx s := by
  cases rx with
  | none => rfl
  | some b => exact feed_noEmit b s

theorem eventsOf_noEmit (beats : List (Option Byte)) (s : State) : eventsOf beats s.noEmit = eventsOf beats s := by
  cases beats with
  | nil => rfl
  | cons rx rest => rw [eventsOf, eventsOf, feedBeat_noEmit]

theorem traceOf_noEmit (beats : List (Option Byte)) (s : State) : traceOf beats s.noEmit = traceOf beats s := by
  cases beats with
  | nil => rfl
  | cons rx rest => rw [traceOf, traceOf, feedBeat_noEmit]

theorem eventsOf_idle (rest : List (Option Byte)) (s : State) : eventsOf (none :: rest) s = eventsOf rest s :=
  eventsOf_noEmit rest s

theorem traceOf_idle (rest : List (Option Byte)) (s : State) : traceOf (none :: rest) s = none :: traceOf rest s :=
  congrArg (none :: ·) (traceOf_noEmit rest s)

theorem eventsOf_eq_eventsOf_bytes (beats : List (Option Byte)) (s : State) :
    eventsOf beats s = eventsOf ((beats.filterMap id).map some) s := by
  induction beats generalizing s with
  | nil => rfl
  | cons rx rest ih =>
    cases rx with
    | none => exact (eventsOf_idle rest s).trans (ih s)
    | some b => simp only [List.filterMap_cons, id, List.map_cons, eventsOf, ih]

theorem traceOf_byteBeats (beats : List (Option Byte)) (s : State) :
    ((beats.zip (traceOf beats s)).filter fun x => x.1.isSome).map Prod.snd =
      traceOf ((beats.filterMap id).map some) s := by
  induction beats generalizing s with
  | nil => rfl
  | cons rx rest ih =>
    cases rx with
    | none =>
      rw [traceOf_idle]
      exact ih s
    | some b =>
      simp only [List.filterMap_cons, id, List.map_cons, traceOf]
      cases feedBeat (some b) s with
      | next t => exact congrArg (t.event :: ·) (ih t)
      | fault | refused => rfl

theorem traceOf_idleBeat (beats : List (Option Byte)) (s : State) (k : Nat) (idle : beats[k]? = some none)
    (c : HostCall) : (traceOf beats s)[k]? ≠ some (some c) := by
  induction beats generalizing s k with
  | nil => cases idle
  | cons rx rest ih =>
    cases k with
    | zero =>
      cases idle
      rw [traceOf_idle]
      nofun
    | succ k =>
      rw [traceOf]
      cases feedBeat rx s with
      | next t => exact ih t k idle
      | fault | refused => nofun

/-- Settles O12: an idle cycle clears `ev_valid` alone, which no byte reads. -/
theorem incrementalEquivalence : Obligations.IncrementalEquivalence := fun beats s =>
  ⟨eventsOf_eq_eventsOf_bytes beats s, traceOf_byteBeats beats s, traceOf_idleBeat beats s⟩

/-! ### Events of consecutive bytes -/

section
variable {s t : State}

theorem eventsOf_cons_of_next {b : Byte} (h : feed b s = .next t) (rest : List (Option Byte)) :
    eventsOf (some b :: rest) s = t.event.toList ++ eventsOf rest t := by
  simp only [eventsOf, feedBeat, h]

theorem eventsOf_append_of_next {xs : List Byte} (h : feedAll xs s = .next t) (ys : List Byte) :
    eventsOf ((xs ++ ys).map some) s = eventsOf (xs.map some) s ++ eventsOf (ys.map some) t := by
  induction xs generalizing s with
  | nil => cases h; rfl
  | cons x xs ih =>
    obtain ⟨u, hu, ht⟩ := andThen_eq_next.mp h
    rw [List.cons_append, List.map_cons, List.map_cons, eventsOf_cons_of_next hu, eventsOf_cons_of_next hu, ih ht,
      List.append_assoc]

end

/-! ### The way through a frame -/

/-- The decoder's control transfers at a byte: back to SeekFirstMagic, from FILL only at the checksum slot, or one place
further in a frame. -/
inductive Dec.Moves (d d' : Dec) : Prop
  | restart (st' : d'.st = .s1) (slot : d.st = .fill → d.cur.toNat = d.dsize - 1)
  | magic0 (st : d.st = .s1) (st' : d'.st = .s2)
  | magic1 (st : d.st = .s2) (st' : d'.st = .rl)
  | length (st : d.st = .rl) (st' : d'.st = .fill) (cur' : d'.cur.toNat = 3) (size : 7 ≤ d'.dsize ∧ d'.dsize ≤ 14)
  | store (st : d.st = .fill) (notLast : d.cur.toNat ≠ d.dsize - 1) (st' : d'.st = .fill) (size : d'.dsize = d.dsize)
      (cur' : d'.cur.toNat = d.cur.toNat + 1)

theorem FeedEdge.moves_of_fill {s : State} {b : Byte} {d : Dec} {e : Ev} (h : FeedEdge s b d e)
    (st : s.dec.st = .fill) : Dec.Moves s.dec d := by
  cases h with
  | seek next notFill => exact absurd st notFill
  | accept reading => rw [reading] at st; cases st
  | store filling notLast inside =>
    refine .store st notLast rfl rfl ?_
    simp only [Config.maxFrame] at inside
    bv_omega
  | ready filling last => exact .restart rfl fun _ => last
  | mismatch filling last => exact .restart rfl fun _ => last

theorem Dec.moves_of_feed {s t : State} {b : Byte} (h : feed b s = .next t) : Dec.Moves s.dec t.dec := by
  cases st : s.dec.st with
  | s1 =>
    by_cases magic : b = Config.magic0
    · rw [magic, feed_seekFirst_magic st] at h
      cases h
      exact .magic0 st rfl
    · rw [feed_seekFirst_discard st magic] at h
      cases h
      exact .restart st (st ▸ nofun)
  | s2 =>
    by_cases magic : b = Config.magic1
    · rw [magic, feed_seekSecond_magic st] at h
      cases h
      exact .magic1 st rfl
    · rw [feed_seekSecond_discard st magic] at h
      cases h
      exact .restart rfl (st ▸ nofun)
  | rl =>
    by_cases listed : b = Config.len2 ∨ b = Config.len9
    · rw [feed_length_accept st listed] at h
      cases h
      refine .length st rfl rfl ?_
      simp only [State.noEmit_dec, State.acceptLen_dec, Dec.dsize]
      rcases listed with rfl | rfl <;> decide
    · rw [not_or] at listed
      rw [feed_length_reject st listed.1 listed.2] at h
      cases h
      exact .restart rfl (st ▸ nofun)
  | fill =>
    exact (feedEdge_of_fill st h).moves_of_fill st

/-- A number of bytes after which the decoder has been in SeekFirstMagic, whatever they are (R122). -/
def Dec.bytesToSeek (d : Dec) : Nat :=
  match d.st with
  | .s1 => 0
  | .s2 => 13
  | .rl => 12
  | .fill => d.dsize - d.cur.toNat

/-- The least number of bytes with which the decoder can emit an event (R129). -/
def Dec.bytesToEvent (d : Dec) : Nat :=
  match d.st with
  | .s1 => 7
  | .s2 => 6
  | .rl => 5
  | .fill => d.dsize - d.cur.toNat

section
variable {d : Dec}

@[simp] theorem Dec.bytesToSeek_s1 (st : d.st = .s1) : d.bytesToSeek = 0 := by rw [Dec.bytesToSeek, st]
@[simp] theorem Dec.bytesToSeek_s2 (st : d.st = .s2) : d.bytesToSeek = 13 := by rw [Dec.bytesToSeek, st]
@[simp] theorem Dec.bytesToSeek_rl (st : d.st = .rl) : d.bytesToSeek = 12 := by rw [Dec.bytesToSeek, st]
@[simp] theorem Dec.bytesToSeek_fill (st : d.st = .fill) : d.bytesToSeek = d.dsize - d.cur.toNat := by
  rw [Dec.bytesToSeek, st]
@[simp] theorem Dec.bytesToEvent_s1 (st : d.st = .s1) : d.bytesToEvent = 7 := by rw [Dec.bytesToEvent, st]
@[simp] theorem Dec.bytesToEvent_s2 (st : d.st = .s2) : d.bytesToEvent = 6 := by rw [Dec.bytesToEvent, st]
@[simp] theorem Dec.bytesToEvent_rl (st : d.st = .rl) : d.bytesToEvent = 5 := by rw [Dec.bytesToEvent, st]
@[simp] theorem Dec.bytesToEvent_fill (st : d.st = .fill) : d.bytesToEvent = d.dsize - d.cur.toNat := by
  rw [Dec.bytesToEvent, st]

end

/-! ### Back in SeekFirstMagic (R122) -/

section
variable {d : Dec} (inv : Dec.Inv d)
include inv

theorem Dec.Inv.bytesToSeek_le : d.bytesToSeek ≤ 13 := by
  cases st : d.st with
  | s1 | s2 | rl => simp [st]
  | fill =>
    have size : d.dsize ≤ 14 := inv.dsize_le st
    obtain ⟨header, -⟩ := inv.cursor st
    rw [Dec.bytesToSeek_fill st]
    omega

theorem Dec.Inv.bytesToSeek_pos (st : d.st ≠ .s1) : 0 < d.bytesToSeek := by
  cases st' : d.st with
  | s1 => exact absurd st' st
  | s2 | rl => simp [st']
  | fill =>
    obtain ⟨-, inFrame⟩ := inv.cursor st'
    rw [Dec.bytesToSeek_fill st']
    omega

theorem Dec.Moves.bytesToSeek_lt {d' : Dec} (h : Dec.Moves d d') (st : d.st ≠ .s1) :
    d'.bytesToSeek < d.bytesToSeek := by
  cases h with
  | restart st' => rw [Dec.bytesToSeek_s1 st']; exact inv.bytesToSeek_pos st
  | magic0 seeking => exact absurd seeking st
  | magic1 seeking st' => rw [Dec.bytesToSeek_s2 seeking, Dec.bytesToSeek_rl st']; decide
  | length reading st' cur' size => rw [Dec.bytesToSeek_rl reading, Dec.bytesToSeek_fill st']; omega
  | store filling notLast st' size cur' =>
    obtain ⟨-, inFrame⟩ := inv.cursor filling
    rw [Dec.bytesToSeek_fill filling, Dec.bytesToSeek_fill st']
    omega

end

theorem feedAll_reaches_seekFirst {s : State} (inv : Dec.Inv s.dec) (bytes : List Byte)
    (enough : s.dec.bytesToSeek ≤ bytes.length) :
    ∃ k, k ≤ bytes.length ∧ ∃ t, feedAll (bytes.take k) s = .next t ∧ t.dec.st = .s1 := by
  by_cases st : s.dec.st = .s1
  · exact ⟨0, Nat.zero_le _, s, rfl, st⟩
  induction bytes generalizing s with
  | nil => exact absurd (inv.bytesToSeek_pos st) (Nat.not_lt.mpr enough)
  | cons b rest ih =>
    obtain ⟨u, hu, invU⟩ := feed_of_decInv inv b
    have closer := (Dec.moves_of_feed hu).bytesToSeek_lt inv st
    rw [List.length_cons] at enough
    by_cases back : u.dec.st = .s1
    · exact ⟨1, Nat.succ_le_succ (Nat.zero_le _), u, feedAll_cons_of_next hu _, back⟩
    · obtain ⟨k, hk, t, ht, found⟩ := ih invU (by omega) back
      exact ⟨k + 1, Nat.succ_le_succ hk, t, (feedAll_cons_of_next hu _).trans ht, found⟩

/-- Settles O11: every byte outside SeekFirstMagic brings the decoder closer to it. -/
theorem decoderNeverStuck : Obligations.DecoderNeverStuck := by
  refine fun s inv => ⟨feed_of_decInv inv, fun bytes all => ?_⟩
  rw [← all]
  exact feedAll_reaches_seekFirst inv bytes (all ▸ inv.bytesToSeek_le)

/-! ### Bytes that emit nothing (R129) -/

theorem Dec.Moves.bytesToEvent_le {d d' : Dec} (h : Dec.Moves d d') :
    d.bytesToEvent ≤ d'.bytesToEvent + 1 := by
  cases h with
  | restart st' slot =>
    rw [Dec.bytesToEvent_s1 st']
    cases st : d.st with
    | s1 | s2 | rl => simp [st]
    | fill =>
      have atSlot := slot st
      rw [Dec.bytesToEvent_fill st]
      omega
  | magic0 st st' => simp [st, st']
  | magic1 st st' => simp [st, st']
  | length st st' cur' size => rw [Dec.bytesToEvent_rl st, Dec.bytesToEvent_fill st']; omega
  | store st notLast st' size cur' => rw [Dec.bytesToEvent_fill st, Dec.bytesToEvent_fill st']; omega

theorem Dec.atLast_of_bytesToEvent {d : Dec} (far : 1 < d.bytesToEvent) : d.atLast = false := by
  by_cases st : d.st = .fill
  · rw [Dec.bytesToEvent_fill st] at far
    rw [Dec.atLast_of_fill st, beq_eq_false_iff_ne]
    omega
  · exact Dec.atLast_of_not_fill st

theorem eventsOf_of_lt_bytesToEvent {s : State} {bytes : List Byte} (few : bytes.length < s.dec.bytesToEvent) :
    eventsOf (bytes.map some) s = [] := by
  induction bytes generalizing s with
  | nil => rfl
  | cons b rest ih =>
    rw [List.length_cons] at few
    have far : 1 < s.dec.bytesToEvent := by omega
    cases h : feed b s with
    | next t =>
      have quiet : t.event = none := State.event_of_not_valid <| by
        rw [(feedEdge_of_feed h).noEvent (Dec.atLast_of_bytesToEvent far)]
        rfl
      have closer := (Dec.moves_of_feed h).bytesToEvent_le
      rw [List.map_cons, eventsOf_cons_of_next h, quiet]
      exact ih (by omega)
    | fault | refused => simp [eventsOf, feedBeat, h]

theorem FeedEdge.st_of_valid {s : State} {b : Byte} {d : Dec} {e : Ev} (h : FeedEdge s b d e) (valid : e.valid = true) :
    d.st = .s1 := by
  cases h with
  | ready | mismatch => rfl
  | seek | accept | store => cases valid

theorem eventsOf_of_seekFirst {s : State} (st : s.dec.st = .s1) {bytes : List Byte} (few : bytes.length ≤ 6) :
    eventsOf (bytes.map some) s = [] :=
  eventsOf_of_lt_bytesToEvent (by rw [Dec.bytesToEvent_s1 st]; omega)

/-- Settles O19: from SeekFirstMagic the next event is seven bytes away. -/
theorem eventsSevenBytesApart : Obligations.EventsSevenBytesApart :=
  ⟨fun _ _ _ h valid => (feedEdge_of_feed h).st_of_valid valid, fun _ _ st few => eventsOf_of_seekFirst st few⟩

/-! ### The events of a frame (R124) -/

section
variable {s : State} (st : s.dec.st = .s1) (id seq : Byte) {payload : List Byte}
  (accepted : payload.length = 1 ∨ payload.length = 8)
include st accepted

/-- After the header the frame's length is known, and what is missing of the frame is as far as the next event. -/
theorem eventsOf_frameHead : eventsOf ((frameHead (id :: payload) seq).map some) s = [] := by
  have listed : BitVec.ofNat 8 (id :: payload).length = Config.len2 ∨
      BitVec.ofNat 8 (id :: payload).length = Config.len9 := by
    rcases accepted with n | n <;> simp [n, Config.len2, Config.len9]
  have size : (BitVec.ofNat 8 (id :: payload).length).toNat = payload.length + 1 := by
    rcases accepted with n | n <;> simp [n]
  obtain ⟨u, hu, header⟩ := feedAll_header st listed
  have before : eventsOf ([Config.magic0, Config.magic1, BitVec.ofNat 8 (id :: payload).length].map some) s = [] :=
    eventsOf_of_seekFirst st (by simp)
  have rest : eventsOf ((seq :: id :: payload).map some) u = [] := eventsOf_of_lt_bytesToEvent <| by
    rw [Dec.bytesToEvent_fill header.st, header.cur, Dec.dsize, header.dlen, size]
    simp only [List.length_cons, List.length_nil]
    omega
  exact (eventsOf_append_of_next hu (seq :: id :: payload)).trans (by rw [before, rest]; rfl)

end

theorem FrameTaken.event_eq {s t : State} {id seq c : Byte} {payload : List Byte}
    (h : FrameTaken s id seq payload c t) :
    t.event = some (if c = xorReduce (frameHead (id :: payload) seq) then .onDecoded id seq payload
      else .onChecksumFailure (frameHead (id :: payload) seq ++ [c])) := by
  have event := h.event
  rw [State.event, if_pos h.valid, State.eventCall]
  split at event
  next ok =>
    obtain ⟨kind, hid, hseq, bytes⟩ := event
    rw [kind, if_pos ok]
    simp only [State.decodedCall, hid, hseq, bytes]
  next bad =>
    obtain ⟨kind, -, -, bytes⟩ := event
    rw [kind, if_neg bad]
    simp only [State.failureCall, bytes]

section
variable {s : State} (st : s.dec.st = .s1) (id seq : Byte) {payload : List Byte}
  (accepted : payload.length = 1 ∨ payload.length = 8)
include st accepted

/-- A frame from SeekFirstMagic gives one event, at its last byte. -/
theorem eventsOf_frame (c : Byte) : eventsOf ((frameHead (id :: payload) seq ++ [c]).map some) s =
    [if c = xorReduce (frameHead (id :: payload) seq) then .onDecoded id seq payload
      else .onChecksumFailure (frameHead (id :: payload) seq ++ [c])] := by
  obtain ⟨t, h, taken⟩ := feedAll_frame st id seq accepted c
  obtain ⟨u, hu, ht⟩ := andThen_eq_next.mp ((forAll_append feed _ [c] s).symm.trans h)
  obtain ⟨v, hv, last⟩ := andThen_eq_next.mp ht
  cases last
  rw [eventsOf_append_of_next hu, eventsOf_frameHead st id seq accepted, List.nil_append, List.map_singleton,
    eventsOf_cons_of_next hv, taken.event_eq]
  rfl

theorem eventsOf_encodeFrame :
    eventsOf ((encodeFrame (id :: payload) seq).map some) s = [.onDecoded id seq payload] :=
  (eventsOf_frame st id seq accepted _).trans (by rw [if_pos rfl])

end

/-- Settles O13: the frame's last byte is the right checksum. -/
theorem encodeDecodeRoundTrip : Obligations.EncodeDecodeRoundTrip := by
  intro s id seq payload st accepted
  obtain ⟨t, h, taken⟩ := feedAll_frame st id seq accepted (xorReduce (frameHead (id :: payload) seq))
  refine ⟨?_, t, h, taken.st, taken.event_eq.trans (by rw [if_pos rfl])⟩
  rw [encodeFrame, List.dropLast_concat]
  exact eventsOf_frameHead st id seq accepted

/-! ### After an anomaly (R125, R126) -/

/-- A header with a LEN outside the whitelist leads back to SeekFirstMagic. -/
theorem feedAll_rejected {s : State} (st : s.dec.st = .s1) {l : Byte} (not2 : l ≠ Config.len2) (not9 : l ≠ Config.len9) :
    ∃ t, feedAll [0x55, 0xAA, l] s = .next t ∧ t.dec.st = .s1 := by
  have first : feed 0x55 s = .next (s.goto .s2).noEmit := feed_seekFirst_magic st
  have second : feed 0xAA (s.goto .s2).noEmit = .next ((s.goto .s2).noEmit.goto .rl).noEmit :=
    feed_seekSecond_magic rfl
  rw [feedAll_cons_of_next first, feedAll_cons_of_next second, feedAll_cons_of_next (feed_length_reject rfl not2 not9)]
  exact ⟨_, rfl, rfl⟩

/-- Settles O17: the frame that follows starts from SeekFirstMagic in each case. -/
theorem recoveryAfterAnomaly : Obligations.RecoveryAfterAnomaly := by
  intro s id1 seq1 id2 seq2 e l p1 p2 st accepted1 accepted2 corrupt not2 not9 bad
  have recovers {t : State} (back : t.dec.st = .s1) := eventsOf_encodeFrame back id2 seq2 accepted2
  refine ⟨?mismatch, ?rejected, fun u t b h anomaly => ?general⟩
  case mismatch =>
    have wrong : xorReduce (frameHead (id1 :: p1) seq1) ^^^ e ≠ xorReduce (frameHead (id1 :: p1) seq1) := by
      simpa using corrupt
    obtain ⟨t, h, taken⟩ := feedAll_frame st id1 seq1 accepted1 (xorReduce (frameHead (id1 :: p1) seq1) ^^^ e)
    rw [eventsOf_append_of_next h, recovers taken.st, eventsOf_frame st id1 seq1 accepted1, if_neg wrong]
    rfl
  case rejected =>
    obtain ⟨t, h, back⟩ := feedAll_rejected st not2 not9
    have silent : eventsOf ([0x55, 0xAA, l].map some) s = [] := eventsOf_of_seekFirst st (by simp)
    rw [eventsOf_append_of_next h, silent, recovers back]
    rfl
  case general =>
    have back : t.dec.st = .s1 := by
      rcases anomaly with valid | ⟨reading, not2, not9⟩
      · exact (feedEdge_of_feed h).st_of_valid valid
      · rw [feed_length_reject reading not2 not9] at h
        cases h
        rfl
    exact ⟨back, recovers back⟩

/-- The two bytes after the first 0x55 are discarded, in SeekSecondMagic and in SeekFirstMagic: three bytes do what an
idle cycle does. -/
theorem feedAll_extraMagic {s : State} (st : s.dec.st = .s1) : feedAll [0x55, 0x55, 0xAA] s = .next s.noEmit := by
  have first : feed 0x55 s = .next (s.goto .s2).noEmit := feed_seekFirst_magic st
  have second : feed 0x55 (s.goto .s2).noEmit = .next s.resync.noEmit := feed_seekSecond_discard rfl (by decide)
  have third : feed 0xAA s.noEmit = .next s.noEmit := (feed_noEmit _ s).trans (feed_seekFirst_discard st (by decide))
  rw [State.resync_of_seekFirst st] at second
  rw [feedAll_cons_of_next first, feedAll_cons_of_next second, feedAll_cons_of_next third]
  rfl

theorem feedAll_without_magic {s : State} (st : s.dec.st = .s1) {bytes : List Byte} (noMagic : ∀ b ∈ bytes, b ≠ 0x55) :
    eventsOf (bytes.map some) s = [] ∧ ∃ t, feedAll bytes s = .next t ∧ t.dec = s.dec := by
  induction bytes generalizing s with
  | nil => exact ⟨rfl, s, rfl, rfl⟩
  | cons b rest ih =>
    have discard := feed_seekFirst_discard st (noMagic b List.mem_cons_self)
    rw [List.map_cons, eventsOf_cons_of_next discard, feedAll_cons_of_next discard]
    exact ih (s := s.noEmit) st fun c hc => noMagic c (List.mem_cons_of_mem b hc)

/-- Settles O18: three bytes that do what an idle cycle does. -/
theorem noRescanAfterDiscard : Obligations.NoRescanAfterDiscard := by
  intro s st
  have extra := feedAll_extraMagic st
  have silent : eventsOf ([0x55, 0x55, 0xAA].map some) s = [] := eventsOf_of_seekFirst st (by simp)
  have skipped : ∀ rest : List Byte,
      eventsOf ((0x55 :: 0x55 :: 0xAA :: rest).map some) s = eventsOf (rest.map some) s := fun rest =>
    (eventsOf_append_of_next extra rest).trans (by rw [silent, eventsOf_noEmit]; rfl)
  refine ⟨⟨s.noEmit, extra, rfl, rfl, feedAll_onlyDecoder extra⟩, fun rest => ⟨skipped rest, fun noMagic => ?_⟩⟩
  obtain ⟨-, t, ht, held⟩ := feedAll_without_magic (s := s.noEmit) st noMagic
  exact ⟨(skipped rest).trans (feedAll_without_magic st noMagic).1, t, (feedAll_append_of_next extra rest).trans ht, held⟩

end Sys2Proof.Machine

/-! PROOFS. No step faults from a state of the invariant (R122, R220): the environment faults on the reserved event kind
alone, the decoder takes every byte, and the arbiter completes sends on ports that exist. -/

namespace Sys2Proof.Machine

/-! ### The environment's part of a cycle -/

theorem takeEvent_ne_fault {s : State} (kind : s.ev.kind ≠ .reserved) (x : Fault) : takeEvent s ≠ .fault x := by
  unfold takeEvent
  split
  · nofun
  · split
    next i hi =>
      rcases s.receivedRow_cases i hi with rfl | rfl | rfl
      · nofun
      · nofun
      · exact State.enqueue_ne_fault _ _ _ x
    · nofun
  · nofun
  next reserved => exact absurd reserved kind

theorem consume_ne_fault {s : State} (kind : s.ev.kind ≠ .reserved) (late : Bool) (x : Fault) :
    consume late s ≠ .fault x := by
  obtain ⟨-, e⟩ | ⟨-, -, -, e⟩ | ⟨-, -, e⟩ := consume_cases late s <;> rw [e]
  · nofun
  · nofun
  · exact takeEvent_ne_fault (s := s.setUnread false) kind x

theorem returnPort_ne_fault (i : Nat) (s : State) (x : Fault) : returnPort i s ≠ .fault x := by
  unfold returnPort
  repeat' split
  all_goals nofun

theorem raisePort_ne_fault (hold : List Nat) (i : Nat) (s : State) (x : Fault) : raisePort hold i s ≠ .fault x := by
  unfold raisePort
  repeat' split
  all_goals nofun

theorem guiMove_ne_fault (m : GuiMove) (s : State) (x : Fault) : guiMove m s ≠ .fault x := by
  cases m with
  | setVelocity => nofun
  | selectMultiplier k =>
    simp only [guiMove]
    split <;> nofun
  | request port body => exact State.enqueue_ne_fault _ port body x
  | clearEncoder payload => exact State.enqueue_ne_fault _ guiPort _ x

theorem stepBattery_ne_fault (s : State) (x : Fault) : stepBattery s ≠ .fault x := by
  unfold stepBattery
  repeat' split
  case h_4.isTrue => exact State.enqueue_ne_fault _ batteryPort _ x
  all_goals nofun

theorem stepVelocity_ne_fault (v : Velocity) (s : State) (x : Fault) : stepVelocity v s ≠ .fault x := by
  unfold stepVelocity
  repeat' split
  case h_3.isTrue => exact State.enqueue_ne_fault _ velocityPort _ x
  all_goals nofun

/-- Moves of which none faults do not fault one after another. -/
theorem forAll_ne_fault {α : Type} {f : α → State → Result} (safe : ∀ a s x, f a s ≠ .fault x) (xs : List α) (s : State)
    (x : Fault) : forAll f xs s ≠ .fault x :=
  forAll_no_fault (fun _ => True) f xs (fun _ _ _ _ _ _ => trivial) (fun a _ s y _ => safe a s y) s trivial x

theorem andThen_ne_fault {r : Result} {f : State → Result} {x : Fault} (first : r ≠ .fault x)
    (second : ∀ s, r = .next s → f s ≠ .fault x) : andThen r f ≠ .fault x := by
  intro h
  rcases andThen_eq_fault.mp h with h | ⟨s, hs, h⟩
  · exact first h
  · exact second s hs h

theorem hostPhase_ne_fault {s : State} (kind : s.ev.kind ≠ .reserved) (x : Fault) : hostPhase s ≠ .fault x :=
  andThen_ne_fault (consume_ne_fault (s := s.takeMove) kind _ x) fun _ _ =>
  andThen_ne_fault (forAll_ne_fault returnPort_ne_fault _ _ x) fun _ _ =>
  andThen_ne_fault (forAll_ne_fault guiMove_ne_fault _ _ x) fun _ _ =>
  andThen_ne_fault (stepBattery_ne_fault _ x) fun _ _ =>
  andThen_ne_fault (forAll_ne_fault stepVelocity_ne_fault _ _ x) fun _ _ =>
  forAll_ne_fault (raisePort_ne_fault _) _ _ x

/-! ### The edge -/

theorem State.completeSend_ne_fault {s : State} {g : Nat} (port : g < s.arb.outs.length) (c : SendStatus) (x : Fault) :
    s.completeSend g c ≠ .fault x := by
  rw [s.completeSend_next g c port]
  nofun

/-- A row that completes a send does so on the grant's port or on a pending one. -/
theorem exec_arbiterRow_ne_fault {i : Instr} (hi : ArbiterRow i) (good : i ≠ .arbBadState) {s : State}
    (inv : Arb.Inv s.cfg s.arb) (x : Fault) : exec i s ≠ .fault x := by
  have granted : s.arb.gnt < s.arb.outs.length := inv.ports ▸ inv.granted
  cases hi
  case closedNoop =>
    simp only [exec, execArbClosedNoop]
    split
    · nofun
    next g hg =>
      have port : g < s.arb.outs.length := inv.ports ▸ (State.mem_pending (s.arbChoice_mem g hg)).1
      exact State.completeSend_ne_fault port .closed x
  case grant =>
    simp only [exec, execArbGrant]
    repeat' split
    all_goals nofun
  case sendLast =>
    simp only [exec, execArbSendLast]
    split
    · refine State.completeSend_ne_fault ?_ .ok x
      exact granted
    · nofun
  case sendAbort => exact State.completeSend_ne_fault granted .closed x
  case gapDone => exact State.completeSend_ne_fault granted .ok x
  case badState => exact absurd rfl good
  case idleWait | sendStall | sendByte | gapCount => nofun

theorem State.arbSelect_ne_badState {s : State} (st : s.arb.st ≠ .bad) : s.arbSelect ≠ .arbBadState := by
  unfold State.arbSelect
  repeat' split
  case h_4 bad => exact absurd bad st
  all_goals nofun

theorem runRow_arbRow_ne_fault {s : State} (inv : Arb.Inv s.cfg s.arb) (x : Fault) : runRow s.arbRow s ≠ .fault x := by
  have row : ArbiterRow s.arbSelect := decodeAw_arbiterRow s.arbRow_eq
  rw [s.arbRow_eq]
  exact exec_arbiterRow_ne_fault row (State.arbSelect_ne_badState inv.state) inv x

theorem driveTxPort_ne_fault (s : State) (x : Fault) : driveTxPort s ≠ .fault x := by
  by_cases st : s.arb.st = .send
  · rw [driveTxPort_of_send s st]
    nofun
  · rw [driveTxPort_of_not_send s st]
    nofun

theorem runRow_decRow_ne_fault {s : State} (inv : Dec.Inv s.dec) (x : Fault) : runRow s.decRow s ≠ .fault x := by
  rw [s.runRow_decRow]
  split
  · obtain ⟨t, ht, -⟩ := feed_of_decInv inv s.inp.rxData
    rw [ht]
    nofun
  · nofun

theorem runEdge_ne_fault {s : State} (dec : Dec.Inv s.dec) (arb : Arb.Inv s.cfg s.arb) (x : Fault) :
    runEdge s ≠ .fault x := by
  refine andThen_ne_fault (driveTxPort_ne_fault s x) fun v hv => ?_
  obtain ⟨cfg1, dec1, -, arb1, -⟩ := driveTxPort_onlyTxPort s v hv
  refine andThen_ne_fault (runRow_decRow_ne_fault (dec1 ▸ dec) x) fun w hw => ?_
  obtain ⟨i, hi, hw⟩ := runRow_eq_next.mp hw
  obtain ⟨cfg2, arb2, -⟩ := exec_decoderRow_onlyDecoder (State.decRow_decoderRow hi) hw
  refine runRow_arbRow_ne_fault ?_ x
  rw [cfg2, cfg1, arb2, arb1]
  exact arb

theorem clockEdge_ne_fault {s : State} (inv : s.PreEdgeInv) (x : Fault) : clockEdge s ≠ .fault x := by
  cases hrst : s.inp.rst with
  | true =>
    rw [clockEdge_of_rst s hrst]
    nofun
  | false =>
    rw [clockEdge_of_not_rst s hrst]
    split
    · exact runEdge_ne_fault inv.dec inv.arb x
    · nofun

/-- Settles O47: the environment's part of a cycle leads to the invariant before the edge, where no row faults. -/
theorem stepNeverFaults : Obligations.StepNeverFaults := fun _ x inv =>
  andThen_ne_fault (hostPhase_ne_fault inv.ev.kind x) fun _ hu =>
  andThen_ne_fault (clockEdge_ne_fault (hostPhase_preEdgeInv inv hu) x) fun _ _ => nofun

end Sys2Proof.Machine

/-! PROOFS. The encoder (41_encoder.md): the frame and its checksum in closed form, the rows of the encoder, the offered
byte as a byte of the frame, and the single-bit errors that the decoder sees. -/

namespace Sys2Proof.Machine

/-! ### The frame and its checksum (R140, R142, R144) -/

/-- R144: 0x55 and 0xAA make 0xFF. -/
theorem xorReduce_frameHead (body : List Byte) (seq : Byte) :
    xorReduce (frameHead body seq) = 0xFF ^^^ BitVec.ofNat 8 body.length ^^^ seq ^^^ xorReduce body := by
  have magic : Config.magic0 ^^^ Config.magic1 = 0xFF := by decide
  simp [frameHead, ← magic, BitVec.xor_assoc]

theorem xorReduce_encodeFrame (body : List Byte) (seq : Byte) : xorReduce (encodeFrame body seq) = 0 := by
  simp [encodeFrame]

/-- Settles O21: the checksum is the XOR of the bytes before it, so it cancels them. -/
theorem encodeFrameClosedForm : Obligations.EncodeFrameClosedForm := by
  intro body seq _
  refine ⟨?_, encodeFrame_length body seq, xorReduce_encodeFrame body seq⟩
  rw [encodeFrame, xorReduce_frameHead]
  rfl

/-- Settles O22: the row sets `tx.frame`. -/
theorem encodeRow : Obligations.EncodeRow := fun s =>
  ⟨s.setTx { s.tx with frame := encodeFrame s.capturedBody s.arb.seqCtr }, rfl, rfl, rfl, rfl,
    ⟨rfl, rfl, rfl, rfl, rfl, rfl, rfl⟩⟩

/-- Settles O24: each row sets `a_csum`. -/
theorem checksumRows : Obligations.ChecksumRows := fun s =>
  ⟨⟨s.setArb s.arb.csumInit, rfl, rfl, ⟨rfl, rfl, rfl, rfl, rfl, rfl, rfl⟩, rfl⟩,
    s.setArb (s.arb.csumStep s.offeredByte), rfl, rfl, ⟨rfl, rfl, rfl, rfl, rfl, rfl, rfl⟩, rfl⟩

/-! ### The offered byte (R143, R164) -/

section
variable {s : State} (inv : Arb.Inv s.cfg s.arb)
include inv

theorem Arb.Inv.frameHead_capturedBody_length :
    (frameHead s.capturedBody s.arb.seqCtr).length = s.arb.len.toNat + 4 := by
  rw [frameHead_length, s.capturedBody_eq inv.body, (Memory.listsFirst_eq _ _ inv.body).2]

/-- R36: at the checksum byte the running XOR is the frame's checksum. -/
theorem Arb.Inv.csum_eq_xorReduce_frameHead (st : s.arb.st = .send) (atEnd : s.arb.cur.toNat = s.arb.len.toNat + 4) :
    s.arb.csum = xorReduce (frameHead s.capturedBody s.arb.seqCtr) := by
  rw [inv.csum st, atEnd, ← s.capturedBody_eq inv.body, List.take_of_length_le inv.frameHead_capturedBody_length.le]

end

theorem State.offeredByte_atEnd {s : State} (atEnd : s.arb.cur.toNat = s.arb.len.toNat + 4) :
    s.offeredByte = s.arb.csum := by
  rw [State.offeredByte, atEnd, s.frameByteAt_checksum]

/-- Settles O25: before the checksum byte by the bytes of the frame's head, at it by the invariant's running XOR. -/
theorem offeredByteIsFrameByte : Obligations.OfferedByteIsFrameByte := by
  intro s inv st
  have size := inv.frameHead_capturedBody_length
  refine ⟨?byte, fun atEnd => ⟨?xor, State.offeredByte_atEnd atEnd⟩⟩
  case byte =>
    rcases Nat.lt_or_eq_of_le (inv.cursor st) with before | atEnd
    · rw [encodeFrame, List.getElem?_append_left (size ▸ before), s.capturedBody_eq inv.body]
      exact State.frameHead_getElem? inv.body before
    · rw [State.offeredByte_atEnd atEnd, inv.csum_eq_xorReduce_frameHead st atEnd, atEnd, ← size]
      exact List.getElem?_concat_length
  case xor =>
    rw [encodeFrame, ← size, List.take_left]
    exact inv.csum_eq_xorReduce_frameHead st atEnd

/-! ### Single-bit errors (R148) -/

theorem xorReduce_modify (bytes : List Byte) {k : Nat} (inside : k < bytes.length) (e : Byte) :
    xorReduce (bytes.modify k fun b => b ^^^ e) = xorReduce bytes ^^^ e := by
  induction bytes generalizing k with
  | nil => cases inside
  | cons b rest ih =>
    cases k with
    | zero => simp [BitVec.xor_assoc, BitVec.xor_comm]
    | succ k => simp [ih (Nat.lt_of_succ_lt_succ inside), BitVec.xor_assoc]

theorem twoPow_ne_zero {j : Nat} (hj : j < 8) : BitVec.twoPow 8 j ≠ 0 :=
  (by decide : ∀ j < 8, BitVec.twoPow 8 j ≠ 0) j hj

/-- A byte with one wrong bit is another byte. -/
theorem xor_twoPow_ne {j : Nat} (hj : j < 8) (b : Byte) : b ^^^ BitVec.twoPow 8 j ≠ b := by
  simpa using twoPow_ne_zero hj

/-- The two accepted lengths are more than one bit apart. -/
theorem length_xor_twoPow_rejected {len : Byte} (listed : len = Config.len2 ∨ len = Config.len9) {j : Nat} (hj : j < 8) :
    len ^^^ BitVec.twoPow 8 j ≠ Config.len2 ∧ len ^^^ BitVec.twoPow 8 j ≠ Config.len9 := by
  have apart : ∀ j < 8, Config.len2 ^^^ BitVec.twoPow 8 j ≠ Config.len9 ∧
      Config.len9 ^^^ BitVec.twoPow 8 j ≠ Config.len2 := by decide
  rcases listed with rfl | rfl
  · exact ⟨xor_twoPow_ne hj _, (apart j hj).1⟩
  · exact ⟨(apart j hj).2, xor_twoPow_ne hj _⟩

/-- Bytes behind a header that are as many as its LEN asks for are a frame's. -/
theorem exists_frame_of_header {n : Nat} {bytes : List Byte} (size : bytes.length = n + 6)
    (header : bytes.take 3 = [Config.magic0, Config.magic1, BitVec.ofNat 8 (n + 1)]) :
    ∃ id seq payload c, payload.length = n ∧ bytes = frameHead (id :: payload) seq ++ [c] := by
  match bytes, size with
  | m0 :: m1 :: len :: seq :: id :: rest, size =>
    rcases List.eq_nil_or_concat rest with rfl | ⟨payload, c, rfl⟩
    · simp at size
    obtain rfl : payload.length = n := by simpa using size
    cases header
    refine ⟨id, seq, payload, c, rfl, ?_⟩
    rw [List.concat_eq_append]
    rfl

/-- No first magic byte is followed by the second one. -/
def NoHeader (bytes : List Byte) : Prop := ∀ i : Nat, bytes[i]? = some 0x55 → bytes[i + 1]? ≠ some 0xAA

/-- Without a header the decoder stays in its two seeking states, where no byte emits anything. -/
theorem eventsOf_of_noHeader {s : State} {bytes : List Byte} (free : NoHeader bytes)
    (seeking : s.dec.st = .s1 ∨ s.dec.st = .s2 ∧ bytes[0]? ≠ some 0xAA) : eventsOf (bytes.map some) s = [] := by
  induction bytes generalizing s with
  | nil => rfl
  | cons b rest ih =>
    have later : NoHeader rest := fun i => free (i + 1)
    rw [List.map_cons]
    rcases seeking with st | ⟨st, other⟩
    · by_cases magic : b = Config.magic0
      · rw [magic, eventsOf_cons_of_next (feed_seekFirst_magic st)]
        exact ih later (.inr ⟨rfl, free 0 (congrArg some magic)⟩)
      · rw [eventsOf_cons_of_next (feed_seekFirst_discard st magic)]
        exact ih later (.inl st)
    · rw [eventsOf_cons_of_next (feed_seekSecond_discard st fun magic => other (congrArg some magic))]
      exact ih later (.inl rfl)

section
variable {s : State} (st : s.dec.st = .s1)
include st

/-- A byte that is not the second magic byte after the first one: the two do what an idle cycle does. -/
theorem feedAll_wrongMagic1 {b : Byte} (other : b ≠ Config.magic1) : feedAll [0x55, b] s = .next s.noEmit := by
  have first : feed 0x55 s = .next (s.goto .s2).noEmit := feed_seekFirst_magic st
  have second : feed b (s.goto .s2).noEmit = .next s.resync.noEmit := feed_seekSecond_discard rfl other
  rw [State.resync_of_seekFirst st] at second
  rw [feedAll_cons_of_next first, feedAll_cons_of_next second]
  rfl

/-- A header with a LEN outside the whitelist does what an idle cycle does. -/
theorem feedAll_wrongLength {l : Byte} (not2 : l ≠ Config.len2) (not9 : l ≠ Config.len9) :
    feedAll [0x55, 0xAA, l] s = .next s.noEmit := by
  have first : feed 0x55 s = .next (s.goto .s2).noEmit := feed_seekFirst_magic st
  have second : feed 0xAA (s.goto .s2).noEmit = .next (s.goto .rl).noEmit := feed_seekSecond_magic rfl
  have third : feed l (s.goto .rl).noEmit = .next s.resync.noEmit := feed_length_reject rfl not2 not9
  rw [State.resync_of_seekFirst st] at third
  rw [feedAll_cons_of_next first, feedAll_cons_of_next second, feedAll_cons_of_next third]
  rfl

/-- After bytes that do what an idle cycle does, only a header could lead to an event. -/
theorem eventsOf_of_skipped {bytes : List Byte} {m : Nat} (skipped : feedAll (bytes.take m) s = .next s.noEmit)
    (few : m ≤ 6) (free : ∀ i, m ≤ i → bytes[i]? = some 0x55 → bytes[i + 1]? ≠ some 0xAA) :
    eventsOf (bytes.map some) s = [] := by
  have later : NoHeader (bytes.drop m) := fun i => by
    simpa [Nat.add_assoc] using free (m + i) (Nat.le_add_right m i)
  rw [← List.take_append_drop m bytes, eventsOf_append_of_next skipped,
    eventsOf_of_seekFirst st ((List.length_take_le m bytes).trans few), eventsOf_noEmit,
    eventsOf_of_noHeader later (.inl st)]
  rfl

/-- Bytes of a frame's size with an accepted header and a XOR other than 0 are a frame with a wrong checksum. -/
theorem eventsOf_of_wrong_xor {n : Nat} (accepted : n = 1 ∨ n = 8) {bytes : List Byte} (size : bytes.length = n + 6)
    (header : bytes.take 3 = [Config.magic0, Config.magic1, BitVec.ofNat 8 (n + 1)]) (wrong : xorReduce bytes ≠ 0) :
    eventsOf (bytes.map some) s = [.onChecksumFailure bytes] := by
  obtain ⟨id, seq, payload, c, rfl, rfl⟩ := exists_frame_of_header size header
  have mismatch : c ≠ xorReduce (frameHead (id :: payload) seq) := fun ok => wrong (by simp [ok])
  rw [eventsOf_frame st id seq accepted, if_neg mismatch]

end

/-- Settles O20: a wrong bit behind the header makes the frame's XOR a power of two, one in the header is a byte that the
seeking states or ReadLength discard. -/
theorem singleBitErrorDetected : Obligations.SingleBitErrorDetected := by
  intro s id seq payload j st accepted hj
  have listed : BitVec.ofNat 8 (payload.length + 1) = Config.len2 ∨
      BitVec.ofNat 8 (payload.length + 1) = Config.len9 := by
    rcases accepted with n | n <;> simp [n, Config.len2, Config.len9]
  refine ⟨fun k behind inside => ?body, fun k magic => ?magic, ?length⟩
  case body =>
    refine eventsOf_of_wrong_xor st accepted (by simp) ?_ ?_
    · rw [List.take_modify, List.modify_eq_self ((List.length_take_le 3 _).trans behind)]
      rfl
    · rw [xorReduce_modify _ (by simpa using inside), xorReduce_encodeFrame]
      simpa using twoPow_ne_zero hj
  case magic =>
    intro received
    have skipped : feedAll (received.take (k + 1)) s = .next s.noEmit := by
      rcases Nat.le_one_iff_eq_zero_or_eq_one.mp (Nat.le_of_lt_succ magic) with rfl | rfl
      · exact feedAll_cons_of_next (feed_seekFirst_discard st (xor_twoPow_ne hj Config.magic0)) []
      · exact feedAll_wrongMagic1 st (xor_twoPow_ne hj Config.magic1)
    exact ⟨⟨_, skipped, rfl⟩, eventsOf_of_skipped st skipped (by omega)⟩
  case length =>
    obtain ⟨not2, not9⟩ := length_xor_twoPow_rejected listed hj
    exact ⟨eventsOf_of_seekFirst st ((List.length_take_le 3 _).trans (by decide)), _,
      feedAll_wrongLength st not2 not9, rfl⟩

end Sys2Proof.Machine

/-! PROOFS. The arbiter (42_arbiter.md): what PENDING holds and who reads it, the row that each condition selects and
what it does, the edges of a stall and of a gap, and a whole send from its grant to its completion. -/

namespace Sys2Proof.Machine

/-! ### PENDING (R160) -/

theorem State.mem_pending_iff {s : State} {i : Nat} : i ∈ s.pending ↔
    i < s.cfg.nreq ∧ ∃ r o, s.inp.req[i]? = some r ∧ s.arb.outs[i]? = some o ∧ r.valid = true ∧ o.done = false := by
  rw [State.pending, List.mem_filter, List.mem_range]
  refine and_congr_right fun _ => ?_
  cases s.inp.req[i]? with
  | none => simp
  | some r => cases s.arb.outs[i]? <;> simp

theorem State.completeSend_setInp (s : State) (inp : Inp) (g : Nat) (c : SendStatus) :
    (s.setInp inp).completeSend g c = andThen (s.completeSend g c) fun t => .next (t.setInp inp) := by
  simp only [State.completeSend, State.done, andThen_ite]
  rfl

/-- Of the arbiter's rows only the two that choose a port of PENDING read an input line. -/
theorem exec_arbiterRow_setInp {i : Instr} (hi : ArbiterRow i) (notClosed : i ≠ .arbClosedNoop)
    (notGrant : i ≠ .arbGrant) (s : State) (inp : Inp) :
    exec i (s.setInp inp) = andThen (exec i s) fun t => .next (t.setInp inp) := by
  cases hi
  case closedNoop => exact absurd rfl notClosed
  case grant => exact absurd rfl notGrant
  case sendLast =>
    simp only [exec, execArbSendLast, andThen_ite, ← State.completeSend_setInp]
    rfl
  case sendAbort => exact s.completeSend_setInp inp s.arb.gnt .closed
  case gapDone => exact s.completeSend_setInp inp s.arb.gnt .ok
  all_goals rfl

section
variable {s : State} (held : s.arb.st = .send ∨ s.arb.st = .gap)
include held

/-- In SEND and GAP the row is selected without PENDING. -/
theorem State.arbSelect_setRequests (reqs : List ReqPort) :
    (s.setInp { s.inp with req := reqs }).arbSelect = s.arbSelect := by
  rw [State.arbSelect, State.arbSelect, State.setInp_arb]
  rcases held with st | st
  · rw [st]
    rfl
  · rw [st]

theorem State.arbSelect_chooses_no_port : s.arbSelect ≠ .arbClosedNoop ∧ s.arbSelect ≠ .arbGrant := by
  rcases held with st | st <;> simp only [State.arbSelect, st] <;> split_ifs <;> exact ⟨nofun, nofun⟩

end

/-- Settles O26: PENDING's members by its definition; in SEND and GAP the row is selected without PENDING and is none
of the two that choose a port. -/
theorem pendingPorts : Obligations.PendingPorts := by
  refine fun s => ⟨fun i => State.mem_pending_iff, fun held reqs => ⟨?row, fun t run => ?next⟩⟩
  case row => rw [State.arbRow_eq, State.arbRow_eq, State.arbSelect_setRequests held]
  case next =>
    obtain ⟨notClosed, notGrant⟩ := State.arbSelect_chooses_no_port held
    rw [s.arbRow_eq] at run ⊢
    have reads := exec_arbiterRow_setInp (decodeAw_arbiterRow s.arbRow_eq) notClosed notGrant s
      { s.inp with req := reqs }
    rw [show exec s.arbSelect s = .next t from run, andThen_next] at reads
    exact reads

/-! ### What an arbiter's edge changes (R16, R43) -/

theorem State.setArb_onlyArbiter (s : State) (a : Arb) : OnlyArbiter s (s.setArb a) :=
  ⟨rfl, rfl, rfl, rfl, rfl, rfl, rfl⟩

theorem State.transfer_onlyArbiter (s : State) (b : Byte) : OnlyArbiter s (s.transfer b) :=
  ⟨rfl, rfl, rfl, rfl, rfl, rfl, rfl⟩

theorem OnlyArbiter.trans {s t u : State} (h : OnlyArbiter s t) (k : OnlyArbiter t u) : OnlyArbiter s u := by
  obtain ⟨a, b, c, d, e, f, g⟩ := h
  obtain ⟨a', b', c', d', e', f', g'⟩ := k
  exact ⟨a'.trans a, b'.trans b, c'.trans c, d'.trans d, e'.trans e, by rw [f', f], g'.trans g⟩

theorem State.transfer_setArb_onlyArbiter (s : State) (b : Byte) (a : Arb) : OnlyArbiter s ((s.transfer b).setArb a) :=
  (s.transfer_onlyArbiter b).trans ((s.transfer b).setArb_onlyArbiter a)

theorem completes_of_outs {s t : State} {g : Nat} {c : SendStatus} (outs : t.arb.outs = (s.arb.complete g c).outs) :
    Completes g c s t := fun j => by
  rw [outs, s.arb.complete_outs]

/-! ### IDLE (R161 to R163) -/

/-- Settles O28: the row clears the strobes. -/
theorem idleWaitRow : Obligations.IdleWaitRow := by
  intro s st quiet
  refine ⟨?_, s.noDone, rfl, rfl, rfl, s.setArb_onlyArbiter _, rfl⟩
  simp [State.arbRow_eq, State.arbSelect, st, quiet]

/-- A port of PENDING has a request and an output. -/
theorem State.pending_ports {s : State} {g : Nat} (h : g ∈ s.pending) :
    (∃ r ∈ s.inp.req, s.inp.req[g]? = some r ∧ r.valid = true) ∧ g < s.arb.outs.length := by
  obtain ⟨-, r, o, hr, ho, valid, -⟩ := State.mem_pending_iff.mp h
  exact ⟨⟨r, List.mem_of_getElem? hr, hr, valid⟩, (List.getElem?_eq_some_iff.mp ho).1⟩

/-- Settles O29: `P_ARB` chooses the port, which the block has, so that it completes. -/
theorem closedNoopRow : Obligations.ClosedNoopRow := by
  intro s st requested closed
  obtain ⟨g, pending, choice⟩ := s.arbChoice_exists requested
  have run : exec .arbClosedNoop s = .next (s.setArb { s.arb.complete g .closed with st := .idle }) := by
    simp only [exec, execArbClosedNoop, choice]
    exact s.completeSend_next g .closed (State.pending_ports pending).2
  refine ⟨?row, g, pending, _, run, completes_of_outs rfl, ?arb, s.setArb_onlyArbiter _, rfl⟩
  case row => simp [State.arbRow_eq, State.arbSelect, st, requested, closed]
  case arb => simp [Arb.complete, Arb.clearDone, st]

theorem State.requestsLegal_iff {s : State} :
    s.requestsLegal = true ↔ ∀ r ∈ s.inp.req, r.valid = true → r.len.toNat ≤ s.cfg.maxPayload := by
  simp [State.requestsLegal, or_iff_not_imp_left]

/-- R163: after a grant an entry of `a_body` is the entry of the port's data. -/
theorem State.bodyAt_grant {s : State} {a : Arb} {g : Nat} {r : ReqPort} {k : Nat} {b : Byte} (inside : k < r.len.toNat)
    (data : r.data[k]? = some b) : (s.setArb (a.grant g r)).bodyAt k = b := by
  have listed : Memory.get (Memory.fromList 0 r.body) k = some b := by
    rw [← Nat.zero_add k, Memory.get_fromList, ReqPort.body, List.getElem?_take_of_lt inside, data]
  simp [State.bodyAt, Arb.grant, Memory.read, listed]

/-- Settles O30: `P_ARB` chooses the port, and the request there is inside the contract. -/
theorem grantRow : Obligations.GrantRow := by
  intro s st requested isOpen legal
  obtain ⟨g, pending, choice⟩ := s.arbChoice_exists requested
  obtain ⟨⟨r, mem, req, valid⟩, -⟩ := State.pending_ports pending
  have fits := State.requestsLegal_iff.mp legal r mem valid
  have run : exec .arbGrant s = .next (s.setArb (s.arb.clearDone.grant g r)) := by
    simp [exec, execArbGrant, choice, req, fits]
  refine ⟨?row, g, pending, r, req, _, run, rfl, rfl, rfl, rfl, rfl, fun _ _ => State.bodyAt_grant, rfl, rfl, rfl,
    s.setArb_onlyArbiter _, rfl⟩
  simp [State.arbRow_eq, State.arbSelect, st, requested, isOpen]

/-! ### SEND (R165 to R168) -/

theorem State.arbRow_sendStall {s : State} (st : s.arb.st = .send) (isOpen : s.inp.txOpen = true)
    (stalled : s.inp.txReady = false) : s.arbRow = .ok .arbSendStall := by
  simp [State.arbRow_eq, State.arbSelect, st, isOpen, stalled]

/-- Settles O31: the row clears the strobes, and the offered byte does not read them. -/
theorem sendStallRow : Obligations.SendStallRow := fun s st isOpen stalled =>
  ⟨State.arbRow_sendStall st isOpen stalled, s.noDone, rfl, rfl, rfl, rfl, s.setArb_onlyArbiter _, rfl⟩

/-- Settles O32: the cursor's nine bits hold `a_len + 4`. -/
theorem sendByteRow : Obligations.SendByteRow := by
  intro s st isOpen ready before
  refine ⟨?row, _, rfl, rfl, ?cursor, rfl, s.transfer_setArb_onlyArbiter _ _, rfl⟩
  case row => simp [State.arbRow_eq, State.arbSelect, st, isOpen, ready, Arb.atEnd, before.ne]
  case cursor =>
    show (s.arb.cur + 1).toNat = s.arb.cur.toNat + 1
    bv_omega

/-- The state after the checksum byte's transfer where a gap follows (R167). -/
def State.startGap (s : State) : State :=
  (s.transfer s.arb.csum).setArb
    { s.arb.clearDone with seqCtr := s.arb.seqCtr + 1, gap := s.cfg.gap, st := .gap }

section
variable {s : State} (atEnd : s.arb.cur.toNat = s.arb.len.toNat + 4)
include atEnd

theorem exec_sendLast_gap (gap : s.cfg.gap ≠ 0) : exec .arbSendLast s = .next s.startGap := by
  simp only [exec, execArbSendLast, State.offeredByte_atEnd atEnd]
  exact if_neg (mt beq_iff_eq.mp gap)

theorem exec_sendLast_noGap (port : s.arb.gnt < s.arb.outs.length) (gap : s.cfg.gap = 0) :
    exec .arbSendLast s = .next ((s.transfer s.arb.csum).setArb
      { s.arb.complete s.arb.gnt .ok with seqCtr := s.arb.seqCtr + 1, st := .idle }) := by
  simp only [exec, execArbSendLast, State.offeredByte_atEnd atEnd, gap]
  exact State.completeSend_next _ s.arb.gnt .ok port

theorem State.arbRow_sendLast (st : s.arb.st = .send) (isOpen : s.inp.txOpen = true) (ready : s.inp.txReady = true) :
    s.arbRow = .ok .arbSendLast := by
  simp [State.arbRow_eq, State.arbSelect, st, isOpen, ready, Arb.atEnd, atEnd]

end

/-- Settles O33, with and without a gap. -/
theorem sendLastRow : Obligations.SendLastRow := by
  intro s st isOpen ready atEnd port
  refine ⟨State.arbRow_sendLast atEnd st isOpen ready, ?_⟩
  have advanced : (s.arb.seqCtr + 1).toNat = (s.arb.seqCtr.toNat + 1) % 256 := BitVec.toNat_add _ _
  by_cases gap : s.cfg.gap = 0
  · exact ⟨_, exec_sendLast_noGap atEnd port gap, s.transfer_setArb_onlyArbiter _ _, rfl, advanced,
      fun _ => ⟨completes_of_outs rfl, rfl⟩, absurd gap⟩
  · exact ⟨_, exec_sendLast_gap atEnd gap, s.transfer_setArb_onlyArbiter _ _, rfl, advanced,
      fun noGap => absurd noGap gap, fun _ => ⟨rfl, rfl⟩⟩

/-- Settles O34: the granted port completes. -/
theorem sendAbortRow : Obligations.SendAbortRow := by
  intro s st closed port
  refine ⟨?_, _, s.completeSend_next s.arb.gnt .closed port, completes_of_outs rfl, rfl,
    s.setArb_onlyArbiter _, rfl⟩
  simp [State.arbRow_eq, State.arbSelect, st, closed]

/-! ### Many edges (R91) -/

theorem arbEdges_succ_of_row {i : Instr} {s t : State} (row : s.arbRow = .ok i) (run : exec i s = .next t) (n : Nat) :
    arbEdges (n + 1) s = arbEdges n t := by
  rw [arbEdges, row, runRow, run, andThen_next]

theorem arbEdges_add_of_next {m : Nat} {s t : State} (h : arbEdges m s = .next t) (n : Nat) :
    arbEdges (m + n) s = arbEdges n t := by
  induction m generalizing s with
  | zero =>
    cases h
    rw [Nat.zero_add]
  | succ m ih =>
    obtain ⟨u, run, rest⟩ := andThen_eq_next.mp h
    rw [Nat.add_right_comm, arbEdges, run, andThen_next, ih rest]

/-- Settles O41: a stalled edge leads to a state that stalls again. -/
theorem stallMayLastForever : Obligations.StallMayLastForever := by
  intro n
  induction n with
  | zero => exact fun s _ _ _ => ⟨s, rfl, rfl, rfl, rfl⟩
  | succ n ih =>
    intro s st isOpen stalled
    rw [arbEdges_succ_of_row (State.arbRow_sendStall st isOpen stalled) (t := s.noDone) rfl]
    exact ih s.noDone st isOpen stalled

/-! ### GAP (R169, R170) -/

theorem State.arbRow_gapCount {s : State} (st : s.arb.st = .gap) (notLast : s.arb.gap ≠ 1) :
    s.arbRow = .ok .arbGapCount := by
  have more : s.arb.gapLast = false := beq_eq_false_iff_ne.mpr notLast
  simp [State.arbRow_eq, State.arbSelect, st, more]

theorem State.arbRow_gapDone {s : State} (st : s.arb.st = .gap) (last : s.arb.gap = 1) :
    s.arbRow = .ok .arbGapDone := by
  simp [State.arbRow_eq, State.arbSelect, st, Arb.gapLast, last]

/-- Settles O35: the row subtracts one. -/
theorem gapCountRow : Obligations.GapCountRow := fun s st notLast =>
  ⟨State.arbRow_gapCount st notLast, _, rfl, rfl, rfl, s.setArb_onlyArbiter _, rfl⟩

/-- The state after an edge of GAP that is not its last (R169). -/
def State.countGap (s : State) : State := s.setArb { s.arb.clearDone with gap := s.arb.gap - 1 }

/-- With more than one cycle left an edge counts one of them. -/
theorem State.countGap_spec {s : State} (st : s.arb.st = .gap) {n : Nat} (left : s.arb.gap.toNat = n + 2) :
    s.countGap.arb.gap.toNat = n + 1 ∧ ∀ m, arbEdges (m + 1) s = arbEdges m s.countGap := by
  refine ⟨?left, fun m => arbEdges_succ_of_row (State.arbRow_gapCount st ?notLast) rfl m⟩
  case left =>
    show (s.arb.gap - 1).toNat = n + 1
    bv_omega
  case notLast =>
    intro last
    bv_omega

/-- After `k` edges of a longer gap the counter has gone down by `k`, and the port still holds the grant (R169). -/
theorem arbEdges_countsGap (k : Nat) {s : State} (st : s.arb.st = .gap) (running : k < s.arb.gap.toNat) :
    ∃ t, arbEdges k s = .next t ∧ t.arb.st = .gap ∧ t.arb.gap.toNat + k = s.arb.gap.toNat ∧
      t.arb.gnt = s.arb.gnt ∧ t.env = s.env := by
  induction k generalizing s with
  | zero => exact ⟨s, rfl, st, rfl, rfl, rfl⟩
  | succ k ih =>
    obtain ⟨n, left⟩ := Nat.exists_eq_add_of_le' (show 2 ≤ s.arb.gap.toNat by omega)
    obtain ⟨left', edge⟩ := State.countGap_spec st left
    obtain ⟨t, run, inGap, counted, gnt, env⟩ := ih (s := s.countGap) st (by omega)
    exact ⟨t, (edge k).trans run, inGap, by omega, gnt, env⟩

/-- The state after a gap: the last of its edges completes the send (R170). -/
def State.endGap (s : State) : State := s.setArb { s.arb.complete s.arb.gnt .ok with st := .idle, gap := 1 }

/-- A completion clears the other strobes itself, so it does not matter whether an earlier edge did (R43). -/
theorem Arb.complete_clearDone (a : Arb) (g : Nat) (c : SendStatus) : a.clearDone.complete g c = a.complete g c := by
  simp [Arb.complete, Arb.clearDone, Function.comp_def]

theorem State.endGap_countGap (s : State) : s.countGap.endGap = s.endGap := by
  have released := congrArg (fun a : Arb => s.setArb { a with st := .idle, gap := 1 })
    (s.arb.complete_clearDone s.arb.gnt .ok)
  exact released

theorem exists_toNat_eq_succ {gap : BitVec 16} (h : gap ≠ 0) : ∃ n, gap.toNat = n + 1 :=
  Nat.exists_eq_succ_of_ne_zero (mt (BitVec.toNat_inj (y := 0)).mp h)

/-- R170: as many edges as the gap's counter says end the gap. -/
theorem arbEdges_wholeGap (n : Nat) {s : State} (st : s.arb.st = .gap) (port : s.arb.gnt < s.arb.outs.length)
    (left : s.arb.gap.toNat = n + 1) : arbEdges (n + 1) s = .next s.endGap := by
  induction n generalizing s with
  | zero =>
    have last : s.arb.gap = 1 := BitVec.eq_of_toNat_eq left
    rw [arbEdges_succ_of_row (State.arbRow_gapDone st last) (s.completeSend_next s.arb.gnt .ok port), State.endGap,
      ← last]
    rfl
  | succ n ih =>
    obtain ⟨left', edge⟩ := State.countGap_spec st left
    rw [edge, ← s.endGap_countGap]
    exact ih st (port.trans_eq s.arb.clearDone_outs_length.symm) left'

/-- Settles O36: the counter's last cycle, the whole gap and its part before the last cycle. -/
theorem gapDoneRow : Obligations.GapDoneRow := by
  intro s st port
  refine ⟨fun last => ?last, fun full gap => ⟨fun k running => ?running, ?whole⟩, fun n left => ?counted⟩
  case last =>
    exact ⟨State.arbRow_gapDone st last, _, s.completeSend_next s.arb.gnt .ok port,
      completes_of_outs rfl, rfl, s.setArb_onlyArbiter _, rfl⟩
  case running =>
    obtain ⟨t, run, inGap, -⟩ := arbEdges_countsGap k st (full ▸ running)
    exact ⟨t, run, inGap⟩
  case whole =>
    obtain ⟨n, left⟩ := exists_toNat_eq_succ gap
    rw [left]
    exact ⟨_, arbEdges_wholeGap n st port (full ▸ left), rfl, completes_of_outs rfl, rfl⟩
  case counted =>
    obtain ⟨t, run, inGap, counted, gnt, env⟩ := arbEdges_countsGap n st (left ▸ n.lt_succ_self)
    exact ⟨t, run, inGap, BitVec.eq_of_toNat_eq (show t.arb.gap.toNat = 1 by omega), gnt, env⟩

/-! ### A whole send (R171, R173, R265) -/

/-- The frame of the body captured at the grant (R146). -/
def State.sentFrame (s : State) : List Byte := encodeFrame s.capturedBody s.arb.seqCtr

/-- `t` is `s`, as a grant leaves it, `k` edges and `k` bytes later (R166). -/
structure SendsBytes (s : State) (k : Nat) (t : State) : Prop where
  run : arbEdges k s = .next t
  inv : Arb.Inv t.cfg t.arb
  cur : t.arb.cur.toNat = k
  arb : t.arb = { s.arb with cur := t.arb.cur, csum := t.arb.csum, outs := t.arb.outs }
  frame : OnlyArbiter s t
  wire : t.env.wire = s.env.wire ++ s.sentFrame.take k

section
variable {s t : State} {k : Nat} (h : SendsBytes s k t)
include h

theorem SendsBytes.sentFrame_eq : t.sentFrame = s.sentFrame := by
  obtain ⟨-, -, -, -, -, -, tick⟩ := h.frame
  rw [State.sentFrame, State.capturedBody, h.arb, tick]
  rfl

/-- The byte offered next is the frame's next byte (R143). -/
theorem SendsBytes.wire_succ (st : s.arb.st = .send) :
    t.env.wire ++ [t.offeredByte] = s.env.wire ++ s.sentFrame.take (k + 1) := by
  have next : t.sentFrame[t.arb.cur.toNat]? = some t.offeredByte :=
    (offeredByteIsFrameByte t h.inv (h.arb ▸ st)).1
  rw [h.sentFrame_eq, h.cur] at next
  rw [h.wire, List.take_add_one, next, List.append_assoc]
  rfl

end

section
variable {s : State} (inv : Arb.Inv s.cfg s.arb) (st : s.arb.st = .send) (start : s.arb.cur = 0)
  (isOpen : s.inp.txOpen = true) (ready : s.inp.txReady = true)
include inv st start isOpen ready

theorem exists_sendsBytes (k : Nat) (hk : k ≤ s.arb.len.toNat + 4) : ∃ t, SendsBytes s k t := by
  induction k with
  | zero =>
    exact ⟨s, rfl, inv, congrArg BitVec.toNat start, rfl, s.setArb_onlyArbiter _,
      (List.append_nil _).symm⟩
  | succ k ih =>
    obtain ⟨t, sent⟩ := ih (Nat.le_of_succ_le hk)
    obtain ⟨-, -, -, -, inp, -, -⟩ := sent.frame
    have st' : t.arb.st = .send := sent.arb ▸ st
    have len : t.arb.len = s.arb.len := by rw [sent.arb]
    have before : t.arb.cur.toNat < t.arb.len.toNat + 4 := by rw [sent.cur, len]; exact hk
    obtain ⟨row, u, run, arb, cur, -, frame, wire⟩ :=
      sendByteRow t st' (inp ▸ isOpen) (inp ▸ ready) before
    refine ⟨u, ?run, ?inv, cur.trans (congrArg _ sent.cur), ?arb, sent.frame.trans frame,
      wire.trans (sent.wire_succ st)⟩
    case run => rw [arbEdges_add_of_next sent.run, arbEdges_succ_of_row row run, arbEdges]
    case inv =>
      cases run
      exact State.arbInv_sendByte sent.inv st' before.ne
    case arb => rw [arb, sent.arb]

end

theorem State.sentFrame_length {s : State} (inv : Arb.Inv s.cfg s.arb) :
    s.sentFrame.length = s.arb.len.toNat + 5 := by
  rw [State.sentFrame, encodeFrame, List.length_append, inv.frameHead_capturedBody_length]
  rfl

/-- The send completes `P_GAP` edges after the checksum byte's transfer, at once where `P_GAP` is 0 (R167, R170). -/
theorem arbEdges_lastByteAndGap {s : State} (st : s.arb.st = .send) (isOpen : s.inp.txOpen = true)
    (ready : s.inp.txReady = true) (atEnd : s.arb.cur.toNat = s.arb.len.toNat + 4)
    (port : s.arb.gnt < s.arb.outs.length) :
    ∃ t, arbEdges (s.cfg.gap.toNat + 1) s = .next t ∧ t.env.wire = s.env.wire ++ [s.offeredByte] ∧ t.arb.st = .idle ∧
      t.arb.seqCtr = s.arb.seqCtr + 1 ∧ t.arb.outs = (s.arb.complete s.arb.gnt .ok).outs := by
  have row := State.arbRow_sendLast atEnd st isOpen ready
  rw [State.offeredByte_atEnd atEnd]
  by_cases gap : s.cfg.gap = 0
  · rw [gap, arbEdges_succ_of_row row (exec_sendLast_noGap atEnd port gap)]
    exact ⟨_, rfl, rfl, rfl, rfl, rfl⟩
  · obtain ⟨n, left⟩ := exists_toNat_eq_succ gap
    rw [left, arbEdges_succ_of_row row (exec_sendLast_gap atEnd gap),
      arbEdges_wholeGap n (s := s.startGap) rfl (port.trans_eq s.arb.clearDone_outs_length.symm) left]
    exact ⟨_, rfl, rfl, rfl, rfl, congrArg (·.outs) (s.arb.complete_clearDone s.arb.gnt .ok)⟩

/-- Settles O40: the bytes before the checksum byte edge by edge, then the last byte and the gap. -/
theorem grantedFrameIsSentWhole : Obligations.GrantedFrameIsSentWhole := by
  intro s _ inv st start isOpen ready
  have bytes := exists_sendsBytes inv st start isOpen ready
  obtain ⟨u, sent⟩ := bytes _ le_rfl
  obtain ⟨cfg, -, -, -, inp, -, -⟩ := sent.frame
  have st' : u.arb.st = .send := sent.arb ▸ st
  have atEnd : u.arb.cur.toNat = u.arb.len.toNat + 4 := by rw [sent.cur, sent.arb]
  have gnt : u.arb.gnt = s.arb.gnt := by rw [sent.arb]
  have port : u.arb.gnt < u.arb.outs.length := sent.inv.ports ▸ sent.inv.granted
  have whole : s.sentFrame.take (s.arb.len.toNat + 5) = s.sentFrame :=
    List.take_of_length_le (State.sentFrame_length inv).le
  refine ⟨fun k hk => ?edges, ?completion⟩
  case edges =>
    rcases Nat.lt_or_eq_of_le hk with before | rfl
    · obtain ⟨t, sent⟩ := bytes k (Nat.le_of_lt_succ before)
      exact ⟨t, sent.run, sent.wire⟩
    · obtain ⟨row, t, run, -, wire, -⟩ := sendLastRow u st' (inp ▸ isOpen) (inp ▸ ready) atEnd port
      refine ⟨t, ?_, ?_⟩
      · rw [arbEdges_add_of_next (n := 1) sent.run, arbEdges_succ_of_row row run, arbEdges]
      · rw [wire, ← State.offeredByte_atEnd atEnd]
        exact sent.wire_succ st
  case completion =>
    obtain ⟨t, run, wire, idle, seqCtr, outs⟩ :=
      arbEdges_lastByteAndGap st' (inp ▸ isOpen) (inp ▸ ready) atEnd port
    refine ⟨t, ?run, ?wire, idle, ?counter, ?granted, ?others⟩
    case run =>
      have split : s.arb.len.toNat + 5 + s.cfg.gap.toNat = s.arb.len.toNat + 4 + (s.cfg.gap.toNat + 1) := by omega
      rw [split, arbEdges_add_of_next sent.run]
      exact cfg ▸ run
    case wire => rw [wire, sent.wire_succ st, whole, State.sentFrame]
    case counter => rw [seqCtr, sent.arb]
    case granted =>
      rw [outs, ← gnt, u.arb.complete_outs, List.getElem?_eq_getElem port, Option.map_some, if_pos rfl]
    case others =>
      rw [outs, ← gnt]
      exact u.arb.complete_completesOnly u.arb.gnt .ok

end Sys2Proof.Machine

/-! PROOFS. The environment agents (43_host_requesters.md): which of them touch nothing but the environment, the consumer's
one call an event, the loops of the polling supervisor, the bytes of a wheel value, and the requests held on the ports. -/

namespace Sys2Proof.Machine

/-! ### The agents that touch the environment alone (R190) -/

theorem OnlyHost.refl (s : State) : OnlyHost s s := ⟨rfl, rfl, rfl, rfl, rfl, rfl, rfl⟩

theorem State.openSequence_onlyHost (s : State) (wasOpen : Bool) : OnlyHost s (s.openSequence wasOpen) := by
  unfold State.openSequence State.startBattery
  split
  · split <;> exact s.setEnv_onlyHost _
  · exact .refl s

theorem guiMove_onlyHost {m : GuiMove} {s t : State} (h : guiMove m s = .next t) : OnlyHost s t := by
  cases m with
  | setVelocity left right =>
    cases h
    exact s.setEnv_onlyHost _
  | selectMultiplier k =>
    simp only [guiMove] at h
    split at h <;> cases h
    exact s.setEnv_onlyHost _
  | request port body => exact State.enqueue_onlyHost (s.actAs .gui) t _ _ h
  | clearEncoder payload => exact State.enqueue_onlyHost (s.actAs .gui) t _ _ h

theorem stepBattery_onlyHost {s t : State} (h : stepBattery s = .next t) : OnlyHost s t := by
  unfold stepBattery at h
  split at h
  · cases h
    exact .refl s
  · cases h
    exact .refl s
  · split at h <;> cases h <;> exact s.setEnv_onlyHost _
  · split at h
    · exact State.enqueue_onlyHost ((s.setEnv { s.env with batt := some .sending }).actAs .battery) t _ _ h
    · cases h
      exact s.setEnv_onlyHost _

theorem stepVelocity_onlyHost {v : Velocity} {s t : State} (h : stepVelocity v s = .next t) : OnlyHost s t := by
  unfold stepVelocity at h
  split at h
  · cases h
    exact .refl s
  · split at h <;> cases h <;> exact s.setEnv_onlyHost _
  · split at h
    · exact State.enqueue_onlyHost ((s.setPhase v.gen .sending).actAs (.velocity v.gen)) t _ _ h
    · cases h
      exact s.setEnv_onlyHost _

/-! ### The event consumer (R195) -/

theorem exec_receivedRow_calls {s t : State} {i : Instr} (row : s.receivedRow = some i) (h : exec i s = .next t) :
    OnlyHost s t ∧ t.env.calls = s.env.calls ++ [s.decodedCall] := by
  rcases s.receivedRow_cases i row with rfl | rfl | rfl
  · cases h
    exact ⟨s.setEnv_onlyHost _, rfl⟩
  · cases h
    exact ⟨s.setEnv_onlyHost _, rfl⟩
  · refine ⟨execIdTimeout_onlyHost s t h, ?_⟩
    obtain ⟨l, -, rfl⟩ := State.enqueue_eq_next ((s.call s.decodedCall).actAs .gui) t _ _ h
    rfl

/-- The timeout sentinel alone needs a port, the GUI's. -/
theorem exec_receivedRow_next {s : State} {i : Instr} {l : Lane} (lane : s.env.lanes[guiPort]? = some l)
    (row : s.receivedRow = some i) : ∃ t, exec i s = .next t := by
  obtain ⟨⟨report, hreport, -⟩, ⟨ack, hack, -⟩, timeout⟩ := receivedIdRows s
  rcases s.receivedRow_cases i row with rfl | rfl | rfl
  · exact ⟨report, hreport⟩
  · exact ⟨ack, hack⟩
  · obtain ⟨t, ht, -⟩ := timeout l lane
    exact ⟨t, ht⟩

theorem takeEvent_next {s : State} {l : Lane} (lane : s.env.lanes[guiPort]? = some l)
    (kind : s.ev.kind ≠ .reserved) : ∃ t, takeEvent s = .next t := by
  unfold takeEvent
  split
  · exact ⟨_, rfl⟩
  · split
    next i row => exact exec_receivedRow_next lane row
    · exact ⟨_, rfl⟩
  · exact ⟨_, rfl⟩
  next reserved => exact absurd reserved kind

/-- Taking an event is the call for it (R195), and touches nothing but the environment. -/
theorem takeEvent_calls {s t : State} (h : takeEvent s = .next t) :
    OnlyHost s t ∧ t.env.calls = s.env.calls ++ s.eventCall.toList := by
  unfold takeEvent at h
  split at h
  next kind =>
    cases h
    simp [State.eventCall, kind, OnlyHost.refl]
  next kind =>
    have call : s.eventCall = some s.decodedCall := by rw [State.eventCall, kind]
    rw [call]
    split at h
    next i row => exact exec_receivedRow_calls row h
    · cases h
      exact ⟨s.setEnv_onlyHost _, rfl⟩
  next kind =>
    have call : s.eventCall = some s.failureCall := by rw [State.eventCall, kind]
    cases h
    rw [call]
    exact ⟨s.setEnv_onlyHost _, rfl⟩
  · cases h

theorem consume_onlyHost {late : Bool} {s t : State} (h : consume late s = .next t) : OnlyHost s t := by
  obtain ⟨-, e⟩ | ⟨-, -, -, e⟩ | ⟨-, -, e⟩ := consume_cases late s <;> rw [e] at h
  · cases h
    exact .refl s
  · cases h
    exact s.setEnv_onlyHost _
  · exact (takeEvent_calls h).1

/-- R195: at an edge that does not overwrite the event registers `ev_valid` falls and the event stays. -/
theorem clockEdge_noEvent {s t : State} (may : s.mustRead = false) (h : clockEdge s = .next t) : NoEvent s t := by
  have hrst : s.inp.rst = false := (Bool.or_eq_false_iff.mp may).1
  have view : s.decoderView.mustRead = s.mustRead := by
    rw [State.mustRead, State.mustRead, hrst]
    rfl
  exact runRow_decRow_noEvent (s := s.decoderView) (t := t.decoderView)
    (runEdge_decoderView (runEdge_of_clockEdge hrst h)) (view.trans may)

/-- A due event's kind is one of the two that have a call (R26). -/
theorem State.eventCall_of_kind {s : State} (event : s.ev.kind ≠ .noEvent) (produced : s.ev.kind ≠ .reserved) :
    s.eventCall.toList = if s.ev.kind = .ready then [s.decodedCall] else [s.failureCall] := by
  rw [State.eventCall]
  cases kind : s.ev.kind with
  | noEvent => exact absurd kind event
  | ready | mismatch => rfl
  | reserved => exact absurd kind produced

theorem State.eventDue_iff {s : State} : s.eventDue = true ↔ s.ev.valid = true ∨ s.env.unread = true :=
  Bool.or_eq_true_iff

theorem consume_of_not_due {s : State} (late : Bool) (valid : s.ev.valid = false) (unread : s.env.unread = false) :
    consume late s = .next s := by
  simp [consume, State.eventDue, valid, unread]

theorem consume_leaves {s : State} (due : s.eventDue = true) (may : s.mustRead = false) :
    consume true s = .next (s.setUnread true) := by
  simp [consume, due, may]

theorem consume_reads {s : State} {late : Bool} (due : s.eventDue = true) (duty : late = false ∨ s.mustRead = true) :
    consume late s = takeEvent (s.setUnread false) := by
  rcases duty with rfl | must
  · simp [consume, due]
  · simp [consume, due, must]

/-- Settles O53: a due event has a call, which reading it makes, and an edge without an event holds its registers. -/
theorem consumerTakesEvent : Obligations.ConsumerTakesEvent := by
  intro s ev unreadKind
  refine ⟨fun late => consume_of_not_due late, fun due => ⟨fun late duty => ?reads, ?leaves⟩,
    fun may t => clockEdge_noEvent may⟩
  case leaves => exact consume_leaves (State.eventDue_iff.mpr due)
  case reads =>
    rw [consume_reads (State.eventDue_iff.mpr due) duty]
    refine ⟨fun ports => takeEvent_next (List.getElem?_eq_getElem ports) ev.kind, fun t h => ?_⟩
    have kind : s.ev.kind ≠ .noEvent :=
      due.elim (fun valid none => Bool.false_ne_true ((ev.none none).1.symm.trans valid)) unreadKind
    obtain ⟨host, calls⟩ := takeEvent_calls h
    exact ⟨host, (takeEvent_agentMove h).unread,
      calls.trans (congrArg (s.env.calls ++ ·) (State.eventCall_of_kind (s := s.setUnread false) kind ev.kind))⟩

/-! ### The velocity body (R64, R95, R200) -/

/-- A wheel value is sent high byte first (R64). -/
theorem Wheel.toNat_bytes (w : Wheel) : w.hi.toNat * 256 + w.lo.toNat = w.toNat := by
  calc w.hi.toNat * 256 + w.lo.toNat
      = w.hi.toNat <<< 8 ||| w.lo.toNat := by
        rw [← Nat.shiftLeft_add_eq_or_of_lt w.lo.isLt, Nat.shiftLeft_eq]
    _ = (w.hi ++ w.lo).toNat := (BitVec.toNat_append w.hi w.lo).symm
    _ = w.toNat := congrArg BitVec.toNat (Wheel.hi_append_lo w)

theorem toNat_wrap16 (v : Int) : ((wrap16 v).toNat : Int) = v % 65536 := by
  rw [wrap16, BitVec.toNat_ofInt]
  exact Int.toNat_of_nonneg (Int.emod_nonneg v (by decide))

theorem wrap16_bytes (v : Int) :
    (((wrap16 v).hi.toNat * 256 + (wrap16 v).lo.toNat : Nat) : Int) = v % 65536 := by
  rw [Wheel.toNat_bytes, toNat_wrap16]

/-- Settles O54: the four bytes are those of the two wrapped values. -/
theorem velocityBodyBigEndian : Obligations.VelocityBodyBigEndian := fun left right m =>
  ⟨_, _, _, _, rfl, wrap16_bytes (left * m), wrap16_bytes (right * m)⟩

/-! ### The requests on the ports (R193, R257) -/

/-- A port's request in a cycle that is not its done cycle. -/
structure State.Holds (i : Nat) (r : ReqPort) (s : State) : Prop where
  request : s.inp.req[i]? = some r
  valid : r.valid = true
  notDone : ∀ o, s.arb.outs[i]? = some o → o.done = false

section
variable {i j : Nat} {r : ReqPort} {s t : State}

theorem OnlyHost.holds (h : OnlyHost s t) (holds : s.Holds i r) : t.Holds i r := by
  obtain ⟨-, -, -, arb, -, inp, -⟩ := h
  exact ⟨inp ▸ holds.request, holds.valid, arb ▸ holds.notDone⟩

/-- Another port takes new lines. -/
theorem OnlyInputs.holds_of_set (h : OnlyInputs s t) {p : ReqPort} (other : j ≠ i)
    (req : t.inp.req = s.inp.req.set j p) (holds : s.Holds i r) : t.Holds i r := by
  obtain ⟨-, -, -, arb, -, -⟩ := h
  exact ⟨req ▸ (List.getElem?_set_ne other).trans holds.request, holds.valid, arb ▸ holds.notDone⟩

end

/-- The state in which the send of a port's requester has returned (R193): the request is withdrawn, the status read, and
the owner's activity goes on. -/
def State.sendReturned (s : State) (i : Nat) (l : Lane) (o : PortOut) : State :=
  (s.setInp { s.inp with req := s.inp.req.set i (ReqPort.withdrawn i s.cfg.maxPayload s.tick) }).setEnv
    (Env.returned { s.env with lanes := s.env.lanes.set i { l with result := some o.status } } l.owner)

/-- A send returns in the done cycle of its port and in no other (R193, R194). -/
theorem returnPort_cases {i : Nat} {s t : State} (h : returnPort i s = .next t) :
    t = s ∨ ∃ l o, s.arb.outs[i]? = some o ∧ o.done = true ∧ t = s.sendReturned i l o := by
  unfold returnPort at h
  split at h
  next l r o _ _ out =>
    split at h <;> cases h
    next done => exact .inr ⟨l, o, out, (Bool.and_eq_true_iff.mp done).1, rfl⟩
    · exact .inl rfl
  · cases h
    exact .inl rfl

theorem returnPort_of_done {i : Nat} {s : State} {l : Lane} {p : ReqPort} {o : PortOut} (lane : s.env.lanes[i]? = some l)
    (request : s.inp.req[i]? = some p) (valid : p.valid = true) (out : s.arb.outs[i]? = some o) (done : o.done = true) :
    returnPort i s = .next (s.sendReturned i l o) := by
  simp only [returnPort, lane, request, out, valid, done]
  rfl

/-- A request is raised only on a port that carries none (R193, R194). -/
theorem raisePort_cases {hold : List Nat} {i : Nat} {s t : State} (h : raisePort hold i s = .next t) :
    t = s ∨ ∃ r p, s.inp.req[i]? = some r ∧ r.valid = false ∧ t.inp.req = s.inp.req.set i p := by
  unfold raisePort at h
  split at h
  · cases h
    exact .inl rfl
  split at h
  next l r _ request =>
    split at h
    · cases h
      exact .inl rfl
    next free =>
      split at h
      · cases h
        exact .inl rfl
      split at h <;> cases h
      exact .inr ⟨r, _, request, Bool.eq_false_iff.mpr free, rfl⟩
  · cases h
    exact .inl rfl

section
variable {i j : Nat} {r : ReqPort} {s t : State}

theorem returnPort_holds (h : returnPort j s = .next t) (holds : s.Holds i r) : t.Holds i r := by
  obtain rfl | ⟨l, o, out, done, ht⟩ := returnPort_cases h
  · exact holds
  · have other : j ≠ i := by
      rintro rfl
      rw [holds.notDone o out] at done
      cases done
    exact (returnPort_onlyInputs j s t h).holds_of_set other (congrArg (·.inp.req) ht) holds

theorem raisePort_holds {hold : List Nat} (h : raisePort hold j s = .next t) (holds : s.Holds i r) : t.Holds i r := by
  obtain rfl | ⟨q, p, request, free, req⟩ := raisePort_cases h
  · exact holds
  · have other : j ≠ i := by
      rintro rfl
      cases holds.request.symm.trans request
      rw [holds.valid] at free
      cases free
    exact (raisePort_onlyInputs hold j s t h).holds_of_set other req holds

theorem forAll_holds {α : Type} {f : α → State → Result} {xs : List α}
    (one : ∀ x s t, f x s = .next t → s.Holds i r → t.Holds i r) (h : forAll f xs s = .next t) (holds : s.Holds i r) :
    t.Holds i r :=
  forAll_invariant (State.Holds i r) f xs (fun x _ s t hs h => one x s t h hs) s t holds h

theorem hostPhase_holds (h : hostPhase s = .next t) (holds : s.Holds i r) : t.Holds i r := by
  obtain ⟨s1, s2, s3, s4, s5, h1, h2, h3, h4, h5, h6⟩ := hostPhase_eq_next s t h
  have lines : s.takeMove.Holds i r := ⟨holds.request, holds.valid, holds.notDone⟩
  have read : s1.Holds i r := (consume_onlyHost h1).holds lines
  have back : s2.Holds i r := forAll_holds (fun _ _ _ => returnPort_holds) h2 read
  have opened : (s2.openSequence s.inp.txOpen).Holds i r := (s2.openSequence_onlyHost _).holds back
  have gui : s3.Holds i r := forAll_holds (fun _ _ _ h => (guiMove_onlyHost h).holds) h3 opened
  have batt : s4.Holds i r := (stepBattery_onlyHost h4).holds gui
  have vels : s5.Holds i r := forAll_holds (fun _ _ _ h => (stepVelocity_onlyHost h).holds) h5 batt
  exact forAll_holds (fun _ _ _ => raisePort_holds) h6 vels

end

/-- Settles O57: only a port's return and its raising drive its request, the one in its done cycle, the other while it
carries none. -/
theorem requestsAreHeld : Obligations.RequestsAreHeld := fun _ _ _ _ h request valid notDone =>
  (hostPhase_holds h ⟨request, valid, notDone⟩).request

/-! ### The velocity activities (R197 to R199, R205) -/

section
variable {s : State} {v : Velocity}

theorem stepVelocity_terminates (phase : v.phase = .check) (stop : v.gen ≠ s.env.gen ∨ s.inp.txOpen = false) :
    stepVelocity v s = .next (s.endVelocity v.gen) := by
  have check : ¬(v.gen = s.env.gen ∧ s.inp.txOpen = true) := by
    rintro ⟨current, isOpen⟩
    rcases stop with superseded | closed
    · exact superseded current
    · exact absurd isOpen (Bool.eq_false_iff.mp closed)
  simp only [stepVelocity, phase, if_neg check]

theorem stepVelocity_waits (phase : v.phase = .check) (current : v.gen = s.env.gen) (isOpen : s.inp.txOpen = true) :
    stepVelocity v s = .next (s.setPhase v.gen (.wait s.cfg.velInterval)) := by
  simp only [stepVelocity, phase, if_pos (And.intro current isOpen)]

theorem stepVelocity_counts {n : Nat} (phase : v.phase = .wait (n + 2)) :
    stepVelocity v s = .next (s.setPhase v.gen (.wait (n + 1))) := by
  simp [stepVelocity, phase]

/-- The wait ends in the row ID_VELOCITY, whatever the generation and the channel are by then (R199). -/
theorem stepVelocity_sends (phase : v.phase = .wait 1) :
    stepVelocity v s = exec (.idVelocity (wrap16 (v.left * v.mult)) (wrap16 (v.right * v.mult)))
      ((s.setPhase v.gen .sending).actAs (.velocity v.gen)) := by
  simp [stepVelocity, phase]

theorem stepVelocity_blocked (phase : v.phase = .sending) : stepVelocity v s = .next s := by
  simp only [stepVelocity, phase]

end

theorem State.sendReturned_onlyInputs (s : State) (i : Nat) (l : Lane) (o : PortOut) :
    OnlyInputs s (s.sendReturned i l o) := ⟨rfl, rfl, rfl, rfl, rfl, rfl⟩

/-- Settles O55, a phase of the activity at a time. -/
theorem velocityLoop : Obligations.VelocityLoop := by
  intro s v
  refine ⟨fun left right => ⟨s.setVelocity left right, rfl, s.setEnv_onlyHost _, rfl⟩,
    fun phase stop => ⟨_, stepVelocity_terminates phase stop, rfl⟩, stepVelocity_waits,
    fun n => stepVelocity_counts, fun l phase lane => ?sends, stepVelocity_blocked,
    fun l p o lane owner request valid out done => ?returns⟩
  case sends =>
    rw [stepVelocity_sends phase]
    exact ⟨_, State.enqueue_next _ velocityPort _ l lane, s.setEnv_onlyHost _, rfl⟩
  case returns =>
    refine ⟨_, returnPort_of_done lane request valid out done, s.sendReturned_onlyInputs 1 l o, ?_⟩
    rw [State.sendReturned, owner]
    rfl

/-! ### The open sequence and the battery poll (R202, R203, R206) -/

theorem State.openSequence_of_rise {s : State} (isOpen : s.inp.txOpen = true) :
    s.openSequence false = s.startBattery.setVelocity 0 0 :=
  if_pos (by simp [isOpen])

theorem State.openSequence_of_no_rise {s : State} {wasOpen : Bool} (noRise : ¬(s.inp.txOpen = true ∧ wasOpen = false)) :
    s.openSequence wasOpen = s :=
  if_neg (by simpa using noRise)

theorem State.startBattery_env (s : State) :
    s.startBattery.env = { s.env with batt := if s.env.batt = none then some .check else s.env.batt } := by
  unfold State.startBattery
  split
  next idle =>
    rw [if_pos idle]
    rfl
  next p running => rw [if_neg (by simp [running])]

theorem State.openSequence_env (s : State) (wasOpen : Bool) : (s.openSequence wasOpen).env =
    if s.inp.txOpen = true ∧ wasOpen = false then
      { s.env with
        batt := if s.env.batt = none then some .check else s.env.batt,
        gen := s.env.gen + 1,
        vels := s.env.vels ++
          [{ gen := s.env.gen + 1, left := 0, right := 0, mult := s.env.mult, phase := .check }] }
    else s.env := by
  split
  next rise =>
    obtain ⟨isOpen, rfl⟩ := rise
    rw [State.openSequence_of_rise isOpen, State.setVelocity, State.startBattery_env]
    rfl
  next noRise => rw [State.openSequence_of_no_rise noRise]

section
variable {s : State}

theorem stepBattery_terminates (phase : s.env.batt = some .check) (closed : s.inp.txOpen = false) :
    stepBattery s = .next (s.setEnv { s.env with batt := none }) := by
  simp [stepBattery, phase, closed]

theorem stepBattery_waits (phase : s.env.batt = some .check) (isOpen : s.inp.txOpen = true) :
    stepBattery s = .next (s.setEnv { s.env with batt := some (.wait s.cfg.battInterval) }) := by
  simp [stepBattery, phase, isOpen]

theorem stepBattery_counts {n : Nat} (phase : s.env.batt = some (.wait (n + 2))) :
    stepBattery s = .next (s.setEnv { s.env with batt := some (.wait (n + 1)) }) := by
  simp [stepBattery, phase]

/-- The wait ends in the row ID_BATTERY_QUERY (R202). -/
theorem stepBattery_sends (phase : s.env.batt = some (.wait 1)) :
    stepBattery s = exec .idBatteryQuery ((s.setEnv { s.env with batt := some .sending }).actAs .battery) := by
  simp [stepBattery, phase]

theorem stepBattery_blocked (phase : s.env.batt = some .sending) : stepBattery s = .next s := by
  simp only [stepBattery, phase]

end

/-- Settles O56, the open sequence and then a phase of the poll at a time. -/
theorem batteryLoop : Obligations.BatteryLoop := by
  intro s
  refine ⟨fun wasOpen => ⟨s.openSequence_onlyHost wasOpen, s.openSequence_env wasOpen⟩, stepBattery_terminates,
    stepBattery_waits, fun n => stepBattery_counts, fun l phase lane => ?sends, stepBattery_blocked,
    fun l p o sending lane owner request valid out done => ?returns⟩
  case sends =>
    rw [stepBattery_sends phase]
    exact ⟨_, State.enqueue_next _ batteryPort _ l lane, s.setEnv_onlyHost _, rfl⟩
  case returns =>
    refine ⟨_, returnPort_of_done lane request valid out done, s.sendReturned_onlyInputs 0 l o, ?_⟩
    rw [State.sendReturned, owner]
    simp [Env.returned, sending]

end Sys2Proof.Machine

/-! PROOFS. The priority of RESET over every other row (60_exceptions.md, R224). -/

namespace Sys2Proof.Machine

/-- Settles O43: the edge is the row RESET, whose next state by definition has `tx_valid` cleared and the wire and the
calls of `s` (R41, R250). -/
theorem resetHasPriority : Obligations.ResetHasPriority := by
  intro s hrst
  have edge : clockEdge s = exec .reset s := clockEdge_of_rst s hrst
  exact ⟨edge, _, edge, rfl, rfl, rfl⟩

end Sys2Proof.Machine
